-- ==== Sys2Proof/Word.lean ====
section
/-! DEFINITION. The word types of the block: a byte, a 4-bit count, and the control state.
Rules: R7 (bytes), R20 and R76 (4-bit unsigned counters and counts), R21 (the five control states). -/

namespace Sys2Proof

/-- R7: a byte, an 8-bit unsigned value; bit 0 is its least significant bit. -/
abbrev Byte := BitVec 8

/-- R20, R76, R77: a 4-bit unsigned counter or count. -/
abbrev Count := BitVec 4

/-- A count from a natural number (its low 4 bits). -/
abbrev Count.of (n : Nat) : Count := BitVec.ofNat 4 n

/-- R21: the control state `st`, the five micro-states inside the source's one logical state SEEKING.
Its binary encoding is not observable (I7), so it is an enumeration. -/
inductive Ctrl where
  /-- a poll request REQ(11) is outstanding -/
  | poll
  /-- a non-empty chunk is held; the fast-path check is next -/
  | fast
  /-- the slow-path scan examines CHUNK[IDX] -/
  | scan
  /-- a pad request REQ(NEED) is outstanding -/
  | pad
  /-- a candidate is complete or short; its check is next -/
  | cand
  deriving DecidableEq, Repr

end Sys2Proof
end

