-- ==== Sys2Proof/Config.lean ====
section
/-! DEFINITION. What an implementation fixes (R5): the named constants of D14, the two open parameters'
types, and the one free value, RESET_INFLIGHT (D6, R192). -/

namespace Sys2Proof

/-- R5, D10: `SCAN_MODE`, an open parameter fixed when the block is built. -/
inductive ScanMode where
  /-- the literal behaviour: every STX position is tried -/
  | all
  /-- stop at the first accepted candidate -/
  | first
  deriving DecidableEq, Repr

/-- R192, D6: what happened to the bytes of a read in flight at reset. -/
inductive InFlight where
  /-- the bytes are lost -/
  | consumed
  /-- the bytes are still to come -/
  | notConsumed
  deriving DecidableEq, Repr, Inhabited

/-- R5 `FRAME_LEN`: a frame has exactly 11 bytes. -/
abbrev Config.frameLen : Nat := 11
/-- R5 `STX`. -/
abbrev Config.stx : Byte := 0x02
/-- R5 `LEN_MARK`. -/
abbrev Config.lenMark : Byte := 0x08
/-- R5 `ETX`. -/
abbrev Config.etx : Byte := 0x03
/-- R5 `REPORT_LEN`: a report has 8 bytes. -/
abbrev Config.reportLen : Nat := 8
/-- R5 `REPORT_OFF`: the report starts at frame offset 2. -/
abbrev Config.reportOff : Nat := 2
/-- R5 `ETX_OFF`: ETX stands at frame offset 10. -/
abbrev Config.etxOff : Nat := 10
/-- R5 `POLL_MAX`: a poll asks for up to 11 bytes. -/
abbrev Config.pollMax : Nat := 11
/-- R76: a pad asks for at most 10 bytes. -/
abbrev Config.padMax : Nat := 10

/-- R192, D6: the draw `RESET_INFLIGHT` of the n-th reset that finds a request outstanding (n from 0).
FREE VALUE (DESIGN CHOICE, assumption 3): it has no body, so a claim proved of the model holds under both draws. -/
opaque Config.resetInflight : Nat → InFlight

end Sys2Proof
end

