-- ==== Sys2Proof/Syntax.lean ====
section
/-! DEFINITION. The operations of the block: one constructor per row of spec/opcode_table.json (R81).
The block runs no program (R29, R64): an operation is selected by the control state and the input the step sees.
Only the RESP rows carry an operand, the response's bytes (R77); the other rows' operands are registers. -/

namespace Sys2Proof

/-- R81: the eleven operations. -/
inductive Instr where
  /-- `POLL_EMPTY` (R102): the poll response carries no bytes -/
  | pollEmpty
  /-- `POLL_CAPTURE` (R103): the poll response carries `data`, 1 to 11 bytes -/
  | pollCapture (data : List Byte)
  /-- `FAST_ACCEPT` (R104): the whole chunk is a valid frame -/
  | fastAccept
  /-- `FAST_REJECT` (R105): the chunk is not a whole valid frame -/
  | fastReject
  /-- `SCAN_END` (R120): the scan has passed the last chunk byte -/
  | scanEnd
  /-- `SCAN_HIT` (R122): the scanned byte is STX -/
  | scanHit
  /-- `SCAN_SKIP` (R121): the scanned byte is not STX -/
  | scanSkip
  /-- `PAD_FILL` (R123): the pad response carries `data`, 0 to NEED bytes -/
  | padFill (data : List Byte)
  /-- `CAND_ACCEPT` (R124): the candidate is a valid frame -/
  | candAccept
  /-- `CAND_REJECT` (R125): the candidate is not a valid frame -/
  | candReject
  /-- `RESET` (R190): the reset input is asserted -/
  | reset
  deriving DecidableEq, Repr

end Sys2Proof
end

