-- ==== Sys2Proof/WellFormed.lean ====
section
/-! DEFINITION. Which terms of Instr are operations of the table (R77, R102, R103, R123): the length of a
response's data. -/

namespace Sys2Proof

/-- R81, R103, R123: `POLL_CAPTURE` carries 1 to 11 bytes; `PAD_FILL` carries at most 10, the largest NEED (R27). -/
def Instr.wf : Instr → Bool
  | .pollEmpty => true
  | .pollCapture data => decide (1 ≤ data.length) && decide (data.length ≤ Config.pollMax)
  | .fastAccept => true
  | .fastReject => true
  | .scanEnd => true
  | .scanHit => true
  | .scanSkip => true
  | .padFill data => decide (data.length ≤ Config.padMax)
  | .candAccept => true
  | .candReject => true
  | .reset => true

end Sys2Proof
end

