-- ==== Sys2Proof/Decode.lean ====
section
/-! DEFINITION. The operation map R81 as a decoder: from the control state and the bytes a step sees to an operation,
total on any bytes, each rejection under a name; after it the encoder, and the reading of an opcode-table word.
The block has no instruction words (30_encoding.md): an operation word is the input of one R81 row in the row's
format (R70): RST, RESP, F11, BYTE or none. -/

namespace Sys2Proof

/-- The state column of R81: the row `any` (the reset input), or a control state. -/
inductive Slot where
  /-- the row `any`: the reset input is examined -/
  | rst
  /-- the rows of one control state -/
  | at (c : Ctrl)
  deriving DecidableEq, Repr

/-- What one step sees: the row group of R81 and the bytes of the input examined, in the row's format.
RST: one byte whose bit 0 is the reset input (R79). RESP: the count byte, then the data (R77; the count is the
low 4 bits of its byte: DESIGN CHOICE, assumption 6). F11: the sequence tested, first byte first (R58). BYTE: the chunk byte;
no byte when IDX = CLEN (row SCAN_END, format `-`). -/
structure OpWord where
  slot : Slot
  bytes : List Byte
  deriving DecidableEq, Repr

/-- Why bytes are no operation word. -/
inductive Reject where
  /-- no byte where the format has one -/
  | emptyWord
  /-- RST: bit 0 is 0, reset is not asserted (R79) -/
  | resetNotAsserted
  /-- RST or BYTE: more than one byte -/
  | trailingBytes
  /-- RESP: the count byte is no 4-bit value (R77) -/
  | countTooWide
  /-- RESP: the count is not the number of data bytes (R77) -/
  | countMismatch
  /-- RESP: more bytes than any request of the state asks for (R54, R76) -/
  | responseTooLong
  /-- F11: a sequence longer than 11 cannot arise (R83) -/
  | sequenceTooLong
  deriving DecidableEq, Repr

/-- R74: the frame-pattern predicate; the length is tested first. -/
def frameOK (seq : List Byte) : Bool :=
  decide (seq.length = Config.frameLen) && seq[0]? == some Config.stx && seq[1]? == some Config.lenMark &&
    seq[Config.etxOff]? == some Config.etx

/-- R79: RST, one bit with no payload (match 0x1, mask 0x1). -/
def decodeRst : List Byte → Except Reject Instr
  | [] => .error .emptyWord
  | [b] => if b &&& 0x01 = 0x01 then .ok .reset else .error .resetNotAsserted
  | _ :: _ :: _ => .error .trailingBytes

/-- R77: RESP, a 4-bit count and that many data bytes, at most `limit`. -/
def decodeResp (limit : Nat) : List Byte → Except Reject (List Byte)
  | [] => .error .emptyWord
  | k :: data =>
    if 16 ≤ k.toNat then .error .countTooWide
    else if k.toNat ≠ data.length then .error .countMismatch
    else if limit < k.toNat then .error .responseTooLong
    else .ok data

/-- R81 rows POLL_EMPTY, then POLL_CAPTURE by default. -/
def decodePoll (bytes : List Byte) : Except Reject Instr :=
  match decodeResp Config.pollMax bytes with
  | .ok [] => .ok .pollEmpty
  | .ok (b :: data) => .ok (.pollCapture (b :: data))
  | .error e => .error e

/-- R81 row PAD_FILL. -/
def decodePad (bytes : List Byte) : Except Reject Instr :=
  match decodeResp Config.padMax bytes with
  | .ok data => .ok (.padFill data)
  | .error e => .error e

/-- R81 rows of FAST and CAND: `accept` where R74 holds, else the default `reject`. -/
def decodeF11 (accept reject : Instr) (bytes : List Byte) : Except Reject Instr :=
  if Config.frameLen < bytes.length then .error .sequenceTooLong
  else if frameOK bytes then .ok accept else .ok reject

/-- R81 rows SCAN_END, SCAN_HIT, then SCAN_SKIP by default. -/
def decodeScan : List Byte → Except Reject Instr
  | [] => .ok .scanEnd
  | [b] => if b = Config.stx then .ok .scanHit else .ok .scanSkip
  | _ :: _ :: _ => .error .trailingBytes

/-- R81: the operation map. -/
def decode (w : OpWord) : Except Reject Instr :=
  match w.slot with
  | .rst => decodeRst w.bytes
  | .at .poll => decodePoll w.bytes
  | .at .fast => decodeF11 .fastAccept .fastReject w.bytes
  | .at .scan => decodeScan w.bytes
  | .at .pad => decodePad w.bytes
  | .at .cand => decodeF11 .candAccept .candReject w.bytes

/-- R77: the RESP word of a response. -/
def encodeResp (data : List Byte) : List Byte := BitVec.ofNat 8 data.length :: data

/-- R72: the F11 word of a row whose match value is 0x0208000000000000000003. -/
def frameWord : List Byte :=
  Config.stx :: Config.lenMark :: (List.replicate Config.reportLen 0 ++ [Config.etx])

/-- The word of each operation: the `match` column of spec/opcode_table.json in the row's format, and a response's
own bytes. A row with free bits (mask 0) is represented by its match value. -/
def encode : Instr → OpWord
  | .pollEmpty => ⟨.at .poll, encodeResp []⟩
  | .pollCapture data => ⟨.at .poll, encodeResp data⟩
  | .fastAccept => ⟨.at .fast, frameWord⟩
  | .fastReject => ⟨.at .fast, List.replicate Config.frameLen 0⟩
  | .scanEnd => ⟨.at .scan, []⟩
  | .scanHit => ⟨.at .scan, [Config.stx]⟩
  | .scanSkip => ⟨.at .scan, [0]⟩
  | .padFill data => ⟨.at .pad, encodeResp data⟩
  | .candAccept => ⟨.at .cand, frameWord⟩
  | .candReject => ⟨.at .cand, List.replicate Config.frameLen 0⟩
  | .reset => ⟨.rst, [0x01]⟩

/-! ## The packed views (R58, R72), used by spec/opcode_table.json only -/

/-- R58: bytes as one number, the first byte most significant. -/
def packBE (bytes : List Byte) : Nat := bytes.foldl (fun acc b => 256 * acc + b.toNat) 0

/-- R72: `F[0]` in bits 87..80, `F[10]` in bits 7..0. -/
def packFrame (bytes : List Byte) : BitVec 88 := BitVec.ofNat 88 (packBE bytes)

/-- R58: a report's view, `r0` in bits 63..56 and `r7` in bits 7..0. -/
def packReport (bytes : List Byte) : BitVec 64 := BitVec.ofNat 64 (packBE bytes)

/-- R72: the F11 match value. -/
def frameMatch : BitVec 88 := 0x0208000000000000000003

/-- R72: the F11 mask: bytes 0, 1 and 10 are compared, bytes 2..9 are not. -/
def frameMask : BitVec 88 := 0xFFFF0000000000000000FF

/-- R72: the table's comparison of a packed sequence. -/
def matchesF11 (w : BitVec 88) : Bool := w &&& frameMask == frameMatch

/-- The `n` low bytes of a number, least significant first. -/
def bytesLE : Nat → Nat → List Byte
  | 0, _ => []
  | n + 1, w => BitVec.ofNat 8 w :: bytesLE n (w / 256)

/-- The `n` low bytes of a number, most significant first (R58). -/
def bytesBE (n w : Nat) : List Byte := (bytesLE n w).reverse

/-- The operation word a word of spec/opcode_table.json is read as (DESIGN CHOICE, assumption 7). The table's words carry no control
state, and several rows share one word; the rows that fix bits are tried first.
No bits: row SCAN_END (format `-`). 88 bits: F11 in FAST, packed as R72 packs it. Otherwise the first byte is the
lowest: the rows RESET (0x1) and SCAN_HIT (0x02); then RESP in POLL, the first byte the count (0 is POLL_EMPTY), the
data after it, with zeros above `nbits`; a byte that is no count is a scanned BYTE. -/
def tableWord (nbits w : Nat) : OpWord :=
  if nbits = 0 then ⟨.at .scan, []⟩
  else if nbits = 8 * Config.frameLen then ⟨.at .fast, bytesBE Config.frameLen w⟩
  else if nbits ≤ 8 ∧ w = 0x01 then ⟨.rst, [0x01]⟩
  else if nbits ≤ 8 ∧ w = Config.stx.toNat then ⟨.at .scan, [Config.stx]⟩
  else if w % 256 ≤ Config.pollMax then
    ⟨.at .poll, BitVec.ofNat 8 w :: bytesLE (w % 256) (w / 256)⟩
  else ⟨.at .scan, bytesLE 1 w⟩

/-- The operation the decoder reads from an opcode-table word. -/
def decodeTableWord (nbits w : Nat) : Option Instr :=
  match decode (tableWord nbits w) with
  | .ok i => some i
  | .error _ => none

end Sys2Proof
end

