-- ==== Sys2Proof/Machine/State.lean ====
section
/-! DEFINITION. The block's state (R20), with the environment's inputs and the event log the model keeps beside it
(R35, R51), plain data; the faults, the refusals, and the state right after reset (R191). -/

namespace Sys2Proof.Machine

/-- R20, R25: a buffer of 11 elements, each a byte or no value. -/
abbrev Buffer := Vector (Option Byte) Config.frameLen

/-- A buffer whose elements all hold no value (R191). -/
def Buffer.empty : Buffer := Vector.replicate Config.frameLen none

/-- R34: `OUT`, the read request outstanding on the byte-source port. -/
inductive Port where
  /-- `NONE` -/
  | none
  /-- `REQ(n)` -/
  | req (n : Count)
  deriving DecidableEq, Repr

/-- R155: the kind of a trace event. -/
inductive TraceKind where
  | raw
  | cand
  deriving DecidableEq, Repr

/-- R35, R155: an event at one of the block's ports. -/
inductive Event where
  /-- `ReadReq(n)`, a read request on the byte-source port (R51, R76) -/
  | readReq (n : Count)
  /-- `ReadResp(B)`, a read response (R51, R77) -/
  | readResp (data : List Byte)
  /-- `Report(r)`, a report on the report-sink port (R57, R78) -/
  | report (r : List Byte)
  /-- `Reset` (R190) -/
  | reset
  /-- `Trace(kind, B)`, optional and not part of the observation (R155, R184) -/
  | trace (kind : TraceKind) (data : List Byte)
  deriving DecidableEq, Repr

/-- What the environment puts at the block's inputs at one step: the reset input (R79) and, if one arrives, a read
response (R51). A response `none` and an empty one are the same (R52, D8): both are `some []`. -/
structure Input where
  rst : Bool
  resp : Option (List Byte)
  deriving DecidableEq, Repr

/-- No reset and no response. -/
def Input.idle : Input := ⟨false, Option.none⟩

/-- The machine. The first nine fields are the registers of R20, the block's whole state; the others are the model's
record of the block's surroundings (DESIGN CHOICE, assumptions 1, 2, 3, 4). -/
structure State where
  /-- `st`, the control state (R21) -/
  st : Ctrl
  /-- `CHUNK[0..10]`, the bytes of the current poll read (R22) -/
  chunk : Buffer
  /-- `CLEN`, how many elements of CHUNK hold a value (R23) -/
  clen : Count
  /-- `IDX`, the scan position (R24) -/
  idx : Count
  /-- `CAND[0..10]`, the current candidate (R26) -/
  cand : Buffer
  /-- `CANDLEN`, how many elements of CAND hold a value (R26) -/
  candLen : Count
  /-- `NEED`, the pad count of the current candidate (R27) -/
  need : Count
  /-- `HIT`, whether this iteration has emitted a candidate (R28) -/
  hit : Bool
  /-- `OUT`, the outstanding read request (R34) -/
  out : Port
  /-- the environment's inputs, one entry a step, the next first; past the end every input is idle -/
  inputs : List Input
  /-- R35: the event log, oldest first -/
  log : List Event
  /-- R192: the draws RESET_INFLIGHT made so far, oldest first -/
  inflight : List InFlight
  /-- R5: `SCAN_MODE`, fixed when the block is built; no step writes it -/
  scanMode : ScanMode
  /-- R5: `TRACE_EN`, fixed when the block is built; no step writes it -/
  traceEn : Bool
  deriving DecidableEq, Repr

/-- Why the machine stops with a fault. -/
inductive Fault where
  /-- `MF_UNWRITTEN` (R172): raised by a read of a buffer element that holds no value (R25). No run reaches it.
  Safe: the machine stops where the spec has no value. -/
  | unwritten
  deriving DecidableEq, Repr

/-- Why there is no move. -/
inductive Refusal where
  /-- raised by exec's arm of an operation that has no meaning yet; no arm raises it. Safe. -/
  | notModelled (mnemonic : String)
  /-- raised by a step that sees a response with no request outstanding: no move (R54, I9). Safe for claims about runs
  that keep the port contract; unsafe if a real port could deliver one (R54). -/
  | noRequestOutstanding
  /-- raised by a step that sees a response longer than the request: no move (R54, D9, I1). Safe for claims about runs
  that keep the port contract; unsafe if a real source over-returns (D9). -/
  | responseTooLong
  /-- raised by exec of an operation whose R81 row does not apply in the state (another control state, or its condition
  fails), and by a step in a state that R33 rules out where no row applies: the spec gives no effect there. Safe: no
  reachable state with a contract-keeping input raises it. -/
  | rowNotSelected
  deriving DecidableEq, Repr

/-- R191: the state right after reset, at power-on (V40: the log holds `RST`, `REQ 11`). The buffers' storage and the
fields that are no registers start as assumptions 1, 2, 3, 4 and 9 say (DESIGN CHOICE). -/
def State.reset : State where
  st := .poll
  chunk := Buffer.empty
  clen := 0
  idx := 0
  cand := Buffer.empty
  candLen := 0
  need := 0
  hit := false
  out := .req (Count.of Config.pollMax)
  inputs := []
  log := [.reset, .readReq (Count.of Config.pollMax)]
  inflight := []
  scanMode := .all
  traceEn := false

end Sys2Proof.Machine
end

