-- ==== Sys2Proof/Machine/Ops.lean ====
section
/-! DEFINITION. The operations every meaning is written over: the step's two ways to stop, the two ports (SrcRead's
halves and SinkSend), the trace, the entry into POLL, and the reset of the registers.
There is no addressed memory (R50) and no trap entry or return (R177), so none stands here. -/

namespace Sys2Proof.Machine

/-- The outcome of a step (R10). -/
abbrev Out := Host.Outcome State Fault Refusal

/-- R81: go on only where the operation's row applies; elsewhere the spec gives the operation no effect (DESIGN CHOICE,
assumption 8). -/
def onRow (c : Bool) (k : Out) : Out := if c then k else .refused .rowNotSelected

/-- R25: go on with the value read, or raise the model fault. -/
def withRead {α : Type} (r : Except Fault α) (k : α → Out) : Out :=
  match r with
  | .ok a => k a
  | .error f => .fault f

/-- The inputs of this step are gone: the next step sees the next entry. -/
def State.tick (s : State) : State := { s with inputs := s.inputs.tail }

/-- R52, first half of `SrcRead(n)`: `OUT <- REQ(n); log ReadReq(n)`. -/
def State.request (n : Count) (s : State) : State :=
  { s with out := .req n, log := s.log ++ [.readReq n] }

/-- R52, second half of `SrcRead(n)`: `OUT <- NONE; log ReadResp(B)`. -/
def State.respond (data : List Byte) (s : State) : State :=
  { s with out := .none, log := s.log ++ [.readResp data] }

/-- R150: `SinkSend(r)`: `log Report(r)`; nothing else is written. -/
def State.sinkSend (r : List Byte) (s : State) : State := { s with log := s.log ++ [.report r] }

/-- R155: the events of one `Trace(kind, B)`: one where the block has a trace port, none where it has not
(DESIGN CHOICE, assumption 14). -/
def traceEvents (en : Bool) (kind : TraceKind) (data : List Byte) : List Event :=
  if en then [.trace kind data] else []

/-- R155: `Trace(kind, B)`. -/
def State.trace (kind : TraceKind) (data : List Byte) (s : State) : State :=
  { s with log := s.log ++ traceEvents s.traceEn kind data }

/-- R101: every step whose next state is POLL issues the poll request: `st <- POLL; OUT <- REQ(11); log ReadReq(11)`. -/
def State.enterPoll (s : State) : State := ({ s with st := .poll }).request (Count.of Config.pollMax)

/-- R192: a request outstanding at reset is abandoned, and RESET_INFLIGHT is drawn for it. -/
def State.abandon (s : State) : State :=
  { s with
    inflight := s.inflight ++
      (if s.out = .none then [] else [Config.resetInflight s.inflight.length]) }

/-- R190, R191: `log Reset`, and the registers at their reset values (before the entry into POLL). The buffers' elements
all take no value (DESIGN CHOICE, assumption 9). -/
def State.clear (s : State) : State :=
  { s with
    log := s.log ++ [.reset]
    chunk := Buffer.empty
    clen := 0
    idx := 0
    cand := Buffer.empty
    candLen := 0
    need := 0
    hit := false }

end Sys2Proof.Machine
end

