-- ==== Sys2Proof/Machine/Operands.lean ====
section
/-! DEFINITION. The operand forms: a buffer element, a slice of a buffer, the write of a run of bytes (R25, R26), the
payload of a frame (R75) and the pad count of a candidate (R84). -/

namespace Sys2Proof.Machine

/-- R25: element `i` of a buffer whose length register is `len`. An element at or past `len` holds no value whatever
the storage holds; reading an element that holds no value raises MF_UNWRITTEN. -/
def Buffer.read (b : Buffer) (len : Count) (i : Nat) : Except Fault Byte :=
  if i < len.toNat then
    match b[i]? with
    | some (some x) => .ok x
    | _ => .error .unwritten
  else .error .unwritten

/-- R8: the slice of `n` elements from `lo`, in order. -/
def Buffer.slice (b : Buffer) (len : Count) (lo : Nat) : Nat → Except Fault (List Byte)
  | 0 => .ok []
  | n + 1 =>
    match b.read len lo, b.slice len (lo + 1) n with
    | .ok x, .ok xs => .ok (x :: xs)
    | .error f, _ => .error f
    | .ok _, .error f => .error f

/-- R8: the whole sequence, elements 0 to `len` - 1: `CHUNK[0..CLEN-1]` or `CAND[0..CANDLEN-1]`. It is
read whole, before R74 tests its length (DESIGN CHOICE, assumption 5). -/
def Buffer.seq (b : Buffer) (len : Count) : Except Fault (List Byte) := b.slice len 0 len.toNat

/-- R103, R122, R123: the bytes are written to the elements from `off` on, in order; the others stay.
A byte past element 10 is dropped; no reachable state writes one (DESIGN CHOICE, assumption 10). -/
def Buffer.write (b : Buffer) (off : Nat) : List Byte → Buffer
  | [] => b
  | x :: xs => Buffer.write (b.setIfInBounds off (some x)) (off + 1) xs

/-- R75: `Payload(C) = C[2..9]`. -/
def payload (c : List Byte) : List Byte := (c.drop Config.reportOff).take Config.reportLen

/-- R84: `NEED = 11 - (CLEN - IDX)`, unsigned, 4 bits. -/
def padCount (clen idx : Count) : Count := Count.of Config.frameLen - (clen - idx)

end Sys2Proof.Machine
end

