-- ==== Sys2Proof/Machine/Flags.lean ====
section
/-! DEFINITION. The block has no status flags (R30). Here stand the combinational tests the steps make, each computed
and consumed in the one step that reads it; the frame test itself is `frameOK` (R74) in Decode.lean. -/

namespace Sys2Proof.Machine

/-- R120: the scan has passed the last chunk byte. -/
def State.scanDone (s : State) : Bool := decide (s.idx = s.clen)

/-- R121, R122: the STX test of the scan, all 8 bits compared. -/
def isStx (b : Byte) : Bool := b == Config.stx

/-- R28, R124: with SCAN_MODE = FIRST the iteration ends once it has emitted a candidate (HIT, just set). -/
def State.stopsAtHit (s : State) : Bool := decide (s.scanMode = .first) && s.hit

/-- R102, R103: the block waits for the response to a poll. -/
def State.polling (s : State) : Bool :=
  decide (s.st = .poll) && decide (s.out = .req (Count.of Config.pollMax))

/-- R123: the block waits for the response to a pad request. -/
def State.padding (s : State) : Bool := decide (s.st = .pad) && decide (s.out = .req s.need)

end Sys2Proof.Machine
end

