-- ==== Sys2Proof/Machine/Poll.lean ====
section
/-! DEFINITION. The operations of the states POLL and FAST (R102 to R105). -/

namespace Sys2Proof.Machine

/-- `POLL_EMPTY` (R102): the iteration ends with no effect, and the next poll request is issued. -/
def execPollEmpty (s : State) : Out :=
  onRow s.polling (.next (s.tick.respond []).enterPoll)

/-- `POLL_CAPTURE` (R103): the response's bytes go to CHUNK in arrival order, their count to CLEN. -/
def execPollCapture (data : List Byte) (s : State) : Out :=
  onRow (s.polling && decide (1 ≤ data.length) && decide (data.length ≤ Config.pollMax)) <|
    .next { s.tick.respond data with
      chunk := s.chunk.write 0 data
      clen := Count.of data.length
      st := .fast }

/-- `FAST_ACCEPT` (R104): the whole chunk is a valid frame; its report is sent and the iteration ends. -/
def execFastAccept (s : State) : Out :=
  onRow (decide (s.st = .fast)) <|
    withRead (s.chunk.seq s.clen) fun c =>
      onRow (frameOK c) <| .next (s.tick.sinkSend (payload c)).enterPoll

/-- `FAST_REJECT` (R105): the slow path begins at IDX = 0 with HIT = 0. -/
def execFastReject (s : State) : Out :=
  onRow (decide (s.st = .fast)) <|
    withRead (s.chunk.seq s.clen) fun c =>
      onRow (!frameOK c) <| .next { s.tick.trace .raw c with hit := false, idx := 0, st := .scan }

end Sys2Proof.Machine
end

