-- ==== Sys2Proof/Machine/Reset.lean ====
section
/-! DEFINITION. The reset operation (R190 to R194). -/

namespace Sys2Proof.Machine

/-- `RESET` (R190): in any state the iteration is abandoned, the registers take the values of R191 and the poll request
is issued; reports already sent stay sent (R193). -/
def execReset (s : State) : Out := .next s.tick.abandon.clear.enterPoll

end Sys2Proof.Machine
end

