-- ==== Sys2Proof/Machine/Resync.lean ====
section
/-! DEFINITION. The operations of the resynchronization scan, states SCAN, PAD and CAND (R120 to R125). -/

namespace Sys2Proof.Machine

/-- `SCAN_END` (R120): the chunk, the last candidate and every pad byte are dropped; the iteration ends. -/
def execScanEnd (s : State) : Out :=
  onRow (decide (s.st = .scan) && s.scanDone) (.next s.tick.enterPoll)

/-- `SCAN_SKIP` (R121): the scanned byte is not STX. -/
def execScanSkip (s : State) : Out :=
  onRow (decide (s.st = .scan) && !s.scanDone) <|
    withRead (s.chunk.read s.clen s.idx.toNat) fun b =>
      onRow (!isStx b) <| .next { s.tick with idx := s.idx + 1 }

/-- R122: the pad request of the candidate just formed, if it is short; a request for no bytes is not issued (D7). -/
def State.requestPad (s : State) : State :=
  if 0 < s.need.toNat then { s.request s.need with st := .pad } else { s with st := .cand }

/-- `SCAN_HIT` (R122): the scanned byte is STX; the chunk from it on becomes the candidate. -/
def execScanHit (s : State) : Out :=
  onRow (decide (s.st = .scan) && !s.scanDone) <|
    withRead (s.chunk.read s.clen s.idx.toNat) fun b =>
      onRow (isStx b) <|
        withRead (s.chunk.slice s.clen s.idx.toNat (s.clen - s.idx).toNat) fun c =>
          .next (State.requestPad { s.tick with
            cand := s.cand.write 0 c
            candLen := s.clen - s.idx
            need := padCount s.clen s.idx })

/-- `PAD_FILL` (R123): the pad bytes are appended to the candidate. -/
def execPadFill (data : List Byte) (s : State) : Out :=
  onRow (s.padding && decide (data.length ≤ s.need.toNat)) <|
    .next { s.tick.respond data with
      cand := s.cand.write s.candLen.toNat data
      candLen := s.candLen + Count.of data.length
      st := .cand }

/-- `CAND_ACCEPT` (R124): the candidate is a valid frame; its report is sent, and the scan goes on (ALL) or the
iteration ends (FIRST). -/
def execCandAccept (s : State) : Out :=
  onRow (decide (s.st = .cand)) <|
    withRead (s.cand.seq s.candLen) fun c =>
      onRow (frameOK c) <|
        let sent := { (s.tick.trace .cand c).sinkSend (payload c) with hit := true }
        if sent.stopsAtHit then .next sent.enterPoll
        else .next { sent with idx := s.idx + 1, st := .scan }

/-- `CAND_REJECT` (R125): the candidate is dropped and the scan goes on. -/
def execCandReject (s : State) : Out :=
  onRow (decide (s.st = .cand)) <|
    withRead (s.cand.seq s.candLen) fun c =>
      onRow (!frameOK c) <| .next { s.tick.trace .cand c with idx := s.idx + 1, st := .scan }

end Sys2Proof.Machine
end

