-- ==== Sys2Proof/Machine/Dispatch.lean ====
section
/-! DEFINITION. The meaning of each operation of R81, one arm a constructor. -/

namespace Sys2Proof.Machine

def exec (i : Instr) (s : State) : Host.Outcome State Fault Refusal :=
  match i with
  | .pollEmpty => Sys2Proof.Machine.execPollEmpty s
  | .pollCapture data => Sys2Proof.Machine.execPollCapture data s
  | .fastAccept => Sys2Proof.Machine.execFastAccept s
  | .fastReject => Sys2Proof.Machine.execFastReject s
  | .scanEnd => Sys2Proof.Machine.execScanEnd s
  | .scanHit => Sys2Proof.Machine.execScanHit s
  | .scanSkip => Sys2Proof.Machine.execScanSkip s
  | .padFill data => Sys2Proof.Machine.execPadFill data s
  | .candAccept => Sys2Proof.Machine.execCandAccept s
  | .candReject => Sys2Proof.Machine.execCandReject s
  | .reset => Sys2Proof.Machine.execReset s

end Sys2Proof.Machine
end

