-- ==== Sys2Proof/Machine/Fetch.lean ====
section
/-! DEFINITION. What a step sees: the word of the operation its control state and input select (R81), or that it waits
(R10 b), or that its input has no move (R54). And the placing of an opcode-table word there. -/

namespace Sys2Proof.Machine

/-- What one step sees at its control state and inputs. -/
inductive Seen where
  /-- the input of an R81 row, present -/
  | word (w : OpWord)
  /-- the step needs a read response that has not arrived (R10 b) -/
  | wait
  /-- the response breaks the port contract and has no move (R54) -/
  | noMove (r : Refusal)
  /-- reading the input raised the model fault (R25) -/
  | fault (f : Fault)
  deriving DecidableEq, Repr

/-- The inputs of this step; past the end of the list they are idle. -/
def State.input (s : State) : Input := s.inputs.headD Input.idle

/-- A buffer's sequence, or one of its bytes, as an operation word. -/
def seenRead (c : Ctrl) (r : Except Fault (List Byte)) : Seen :=
  match r with
  | .ok bytes => .word ⟨.at c, bytes⟩
  | .error f => .fault f

/-- R81: a response that arrives is examined in POLL and PAD, against the outstanding request (R54, R77). One that
breaks the port contract has no move (assumption 11). -/
def seeResponse (s : State) (data : List Byte) : Seen :=
  match s.out with
  | .none => .noMove .noRequestOutstanding
  | .req n =>
    if n.toNat < data.length then .noMove .responseTooLong
    else
      match s.st with
      | .poll => .word ⟨.at .poll, encodeResp data⟩
      | .pad => .word ⟨.at .pad, encodeResp data⟩
      | .fast => .noMove .rowNotSelected
      | .scan => .noMove .rowNotSelected
      | .cand => .noMove .rowNotSelected

/-- R81: with no response, FAST, SCAN and CAND examine registers; POLL and PAD wait. -/
def seeRegisters (s : State) : Seen :=
  match s.st with
  | .poll => .wait
  | .pad => .wait
  | .fast => seenRead .fast (s.chunk.seq s.clen)
  | .cand => seenRead .cand (s.cand.seq s.candLen)
  | .scan =>
    if s.scanDone then .word ⟨.at .scan, []⟩
    else seenRead .scan (s.chunk.slice s.clen s.idx.toNat 1)

/-- R81, R176: reset first, whatever the state and whatever input is present; then a response; then the registers.
A response present at a reset is dropped (DEDUCED, assumption 12). -/
def see (s : State) : Seen :=
  if s.input.rst then .word ⟨.rst, [0x01]⟩
  else
    match s.input.resp with
    | some data => seeResponse s data
    | none => seeRegisters s

/-- The state `s` changed so that its next step sees the operation word `w`: the control state, the register or input
the row examines, and for a response the outstanding request. -/
def State.withWord (s : State) (w : OpWord) : State :=
  match w.slot with
  | .rst => { s with inputs := ⟨true, none⟩ :: s.inputs }
  | .at .poll =>
    { s with
      st := .poll
      out := .req (Count.of Config.pollMax)
      inputs := ⟨false, some w.bytes.tail⟩ :: s.inputs }
  | .at .pad =>
    { s with
      st := .pad
      cand := s.cand.write 0 [Config.stx]
      candLen := 1
      need := Count.of Config.padMax
      out := .req (Count.of Config.padMax)
      inputs := ⟨false, some w.bytes.tail⟩ :: s.inputs }
  | .at .fast =>
    { s with
      st := .fast
      out := .none
      chunk := s.chunk.write 0 w.bytes
      clen := Count.of w.bytes.length
      inputs := Input.idle :: s.inputs }
  | .at .cand =>
    { s with
      st := .cand
      out := .none
      cand := s.cand.write 0 w.bytes
      candLen := Count.of w.bytes.length
      inputs := Input.idle :: s.inputs }
  | .at .scan =>
    { s with
      st := .scan
      out := .none
      chunk := s.chunk.write 0 w.bytes
      clen := Count.of w.bytes.length
      idx := 0
      inputs := Input.idle :: s.inputs }

end Sys2Proof.Machine
end

