-- ==== Sys2Proof/Machine/Step.lean ====
section
/-! DEFINITION. One step of the block (R10): what it sees is decoded by the operation map R81 and executed. -/

namespace Sys2Proof.Machine

/-- R10: (a) the operation that R81 selects; (b) a wait, which only lets this step's idle input pass; (c) the model
fault. A response that breaks the port contract has no move (R54). -/
def step (s : State) : Host.Outcome State Fault Refusal :=
  match see s with
  | .word w =>
    match decode w with
    | .ok i => exec i s
    | .error _ => .refused .rowNotSelected
  | .wait => .next s.tick
  | .noMove r => .refused r
  | .fault f => .fault f

/-- `s` with the opcode-table word placed where its next step looks (DESIGN CHOICE, assumption 7). -/
def State.withFetchWord (s : State) (nbits w : Nat) : State := s.withWord (tableWord nbits w)

end Sys2Proof.Machine
end

