-- ==== Sys2Proof/Machine/Stimulus.lean ====
section
/-! DEFINITION. The stimulus notation of R85 (D20): a script is a list of lines, each taken at the point where the block
waits for a response. It drives `step` and adds no behaviour of the block. -/

namespace Sys2Proof.Machine

/-- R85: a line of a stimulus script. -/
inductive Line where
  /-- `RESP b0 b1 ...` or `RESP -`: the next read response carries these bytes -/
  | resp (data : List Byte)
  /-- `RESET`: the reset input is asserted before the next response -/
  | reset
  deriving DecidableEq, Repr

/-- The input a line puts at the block. -/
def Line.input : Line → Input
  | .resp data => ⟨false, some data⟩
  | .reset => ⟨true, none⟩

/-- R10 b: the block waits for a read response. -/
def State.waiting (s : State) : Bool := decide (s.st = .poll) || decide (s.st = .pad)

/-- The block's own steps, until it waits for a response or `fuel` steps are done. -/
def settle : Nat → State → Out
  | 0, s => .next s
  | fuel + 1, s =>
    if s.waiting then .next s
    else
      match step { s with inputs := [] } with
      | .next t => settle fuel t
      | .fault f => .fault f
      | .refused r => .refused r

/-- R131: an iteration has at most 34 steps after its poll. -/
abbrev Config.settleFuel : Nat := 34

/-- R85: one line, then the block's own steps until it waits again. -/
def runLine (l : Line) (s : State) : Out :=
  match step { s with inputs := [l.input] } with
  | .next t => settle Config.settleFuel t
  | .fault f => .fault f
  | .refused r => .refused r

/-- R85: a script, line by line, from a state that waits. -/
def runScript : List Line → State → Out
  | [], s => .next s
  | l :: ls, s =>
    match runLine l s with
    | .next t => runScript ls t
    | .fault f => .fault f
    | .refused r => .refused r

end Sys2Proof.Machine
end

