-- ==== Sys2Proof/Safety.lean ====
section
/-! DEFINITION. The terms in which claims speak: the observation (R184), the input stream (R55), the invariants of the
reachable states (R33, R34, R127 to R131), the agreement of states up to dead registers (R32) and the removal of the
trace (R156). -/

namespace Sys2Proof.Machine

/-! ## What a claim observes -/

/-- R155: a trace event. -/
def Event.isTrace : Event → Bool
  | .trace _ _ => true
  | .readReq _ => false
  | .readResp _ => false
  | .report _ => false
  | .reset => false

/-- R184: the event log with trace events removed. -/
def observe (log : List Event) : List Event := log.filter fun e => !e.isTrace

/-- The report an event carries. -/
def Event.report? : Event → Option (List Byte)
  | .report r => some r
  | .readReq _ => none
  | .readResp _ => none
  | .reset => none
  | .trace _ _ => none

/-- The reports of a log, in the order sent (R62). -/
def reports (log : List Event) : List (List Byte) := log.filterMap Event.report?

/-- R55: what an event does to the input stream. -/
def streamStep (stream : List Byte) : Event → List Byte
  | .readResp data => stream ++ data
  | .reset => []
  | .readReq _ => stream
  | .report _ => stream
  | .trace _ _ => stream

/-- R55: the input stream, the concatenation of all responses since the last reset. -/
def inputStream (log : List Event) : List Byte := log.foldl streamStep []

/-- R52: what an event does to the data of the last response. -/
def responseStep (last : Option (List Byte)) : Event → Option (List Byte)
  | .readResp data => some data
  | .readReq _ => last
  | .report _ => last
  | .reset => last
  | .trace _ _ => last

/-- R52: the data of the last response of a log. -/
def lastResponse (log : List Event) : Option (List Byte) := log.foldl responseStep none

/-- R10, R54: at this step the environment keeps the port contract: no response without a request, none too long. -/
def State.inputOK (s : State) : Bool :=
  s.input.rst ||
    match s.input.resp, s.out with
    | none, _ => true
    | some _, .none => false
    | some data, .req n => decide (data.length ≤ n.toNat)

/-- R10 b: the step only waits. -/
def State.waits (s : State) : Bool := decide (see s = .wait)

/-- R191: the values of the registers after reset; every element of the buffers holds no value. -/
abbrev State.AtReset (s : State) : Prop :=
  s.st = .poll ∧ s.out = .req (Count.of Config.pollMax) ∧ s.clen = 0 ∧ s.idx = 0 ∧ s.candLen = 0 ∧ s.need = 0 ∧
    s.hit = false ∧ (∀ i, s.chunk.read s.clen i = .error .unwritten) ∧
    ∀ i, s.cand.read s.candLen i = .error .unwritten

/-! ## The invariants of R33 -/

/-- R25: every element below the length register holds a value. -/
def Buffer.held (b : Buffer) (len : Count) : Bool :=
  match b.seq len with
  | .ok _ => true
  | .error _ => false

/-- R23, R24: a non-empty chunk of at most 11 bytes is held. -/
abbrev State.ChunkHeld (s : State) : Prop :=
  1 ≤ s.clen.toNat ∧ s.clen.toNat ≤ Config.frameLen ∧ s.chunk.held s.clen = true

/-- R33: a candidate has been formed at IDX: `0 <= IDX < CLEN`, `CHUNK[IDX] = STX`, `CAND[0] = STX`,
`CLEN - IDX <= CANDLEN <= 11`. -/
abbrev State.CandHeld (s : State) : Prop :=
  s.ChunkHeld ∧ s.idx.toNat < s.clen.toNat ∧
    s.chunk.read s.clen s.idx.toNat = .ok Config.stx ∧ s.cand.read s.candLen 0 = .ok Config.stx ∧
    s.clen.toNat - s.idx.toNat ≤ s.candLen.toNat ∧ s.candLen.toNat ≤ Config.frameLen ∧
    s.cand.held s.candLen = true

/-- R33, row POLL. -/
abbrev State.PollInv (s : State) : Prop := s.out = .req (Count.of Config.pollMax)

/-- R33, row FAST. -/
abbrev State.FastInv (s : State) : Prop := s.out = .none ∧ s.ChunkHeld

/-- R33, row SCAN. -/
abbrev State.ScanInv (s : State) : Prop := s.out = .none ∧ s.ChunkHeld ∧ s.idx.toNat ≤ s.clen.toNat

/-- R33, row PAD. -/
abbrev State.PadInv (s : State) : Prop :=
  s.out = .req s.need ∧ 1 ≤ s.need.toNat ∧ s.need.toNat ≤ Config.padMax ∧ s.CandHeld ∧
    s.candLen.toNat = s.clen.toNat - s.idx.toNat ∧ s.need.toNat = Config.frameLen - s.candLen.toNat

/-- R33, row CAND. -/
abbrev State.CandInv (s : State) : Prop := s.out = .none ∧ s.CandHeld

/-- R33: the invariants that hold in every reachable state, one row a control state, with R25's that every element
below a live length register holds a value. -/
def State.Inv (s : State) : Prop :=
  match s.st with
  | .poll => s.PollInv
  | .fast => s.FastInv
  | .scan => s.ScanInv
  | .pad => s.PadInv
  | .cand => s.CandInv

/-! ## The port conversation (R34, R54, R62) -/

/-- What an event does to the conversation on the ports; `none` where the event is out of order: a request while one is
outstanding or for a count outside 1..11, a response without a request or longer than it, a report while a read is
outstanding or not of 8 bytes. -/
def portStep (p : Option Port) (e : Event) : Option Port :=
  match p, e with
  | some .none, .readReq n => if 1 ≤ n.toNat ∧ n.toNat ≤ Config.pollMax then some (.req n) else none
  | some (.req n), .readResp data => if data.length ≤ n.toNat then some .none else none
  | some .none, .report r => if r.length = Config.reportLen then some .none else none
  | some _, .reset => some .none
  | some q, .trace _ _ => some q
  | some (.req _), .readReq _ => none
  | some (.req _), .report _ => none
  | some .none, .readResp _ => none
  | none, _ => none

/-- R34: the log is an orderly conversation, and OUT is what is outstanding at its end. -/
abbrev State.PortInv (s : State) : Prop := s.log.foldl portStep (some .none) = some s.out

/-! ## The slow path (R127 to R129) -/

/-- R105, R128: on the slow path the chunk is no frame, and the candidate begins with the chunk bytes from IDX on; in
PAD it is those bytes, and in CAND the pad bytes follow them. -/
abbrev State.SlowInv (s : State) : Prop :=
  (s.st = .scan ∨ s.st = .pad ∨ s.st = .cand →
    ∀ c, s.chunk.seq s.clen = .ok c → frameOK c = false) ∧
  (s.st = .pad ∨ s.st = .cand →
    ∀ c d, s.chunk.seq s.clen = .ok c → s.cand.seq s.candLen = .ok d →
      d.take (c.length - s.idx.toNat) = c.drop s.idx.toNat)

/-- R128: in CAND, of a candidate that was padded, the bytes after the chunk bytes are the pad response, the last response
of the log: `CAND[j] = P[j - m]`, `m = CLEN - IDX`, for every `j` from `m` to `CANDLEN - 1`. -/
abbrev State.PadTailInv (s : State) : Prop :=
  s.st = .cand → s.clen.toNat - s.idx.toNat < Config.frameLen →
    ∀ d, s.cand.seq s.candLen = .ok d →
      lastResponse s.log = some (d.drop (s.clen.toNat - s.idx.toNat))

/-! ## The bounds of one iteration (R131) -/

/-- What an event does to the events of the iteration in progress. -/
def iterationStep (acc : List Event) (e : Event) : List Event :=
  if e = .readReq (Count.of Config.pollMax) then [] else acc ++ [e]

/-- The events of the iteration in progress: those after its poll request (R101). -/
def iteration (log : List Event) : List Event := log.foldl iterationStep []

/-- A read request (in an iteration: a pad request). -/
def Event.isReq : Event → Bool
  | .readReq _ => true
  | .readResp _ => false
  | .report _ => false
  | .reset => false
  | .trace _ _ => false

/-- The stream bytes an event consumes (R55). -/
def Event.consumed : Event → Nat
  | .readResp data => data.length
  | .readReq _ => 0
  | .report _ => 0
  | .reset => 0
  | .trace _ _ => 0

/-- How many pad requests the iteration in progress has issued. -/
def State.padRequests (s : State) : Nat := ((iteration s.log).filter Event.isReq).length

/-- How many stream bytes the iteration in progress has consumed. -/
def State.bytesConsumed (s : State) : Nat := ((iteration s.log).map Event.consumed).sum

/-- How many reports the iteration in progress has sent. -/
def State.reportsSent (s : State) : Nat := (reports (iteration s.log)).length

/-- R84, R131: the most pad bytes the candidates at positions below `i` can request, a chunk of `clen` bytes. -/
def padBudget (clen : Nat) : Nat → Nat
  | 0 => 0
  | i + 1 => padBudget clen i + (Config.frameLen - (clen - i))

/-- R129: how many of the positions below `i` can form a candidate that is padded: position 0 of a full chunk cannot. -/
def padPositions (clen i : Nat) : Nat := if clen = Config.frameLen then i - 1 else i

/-- R28: on the slow path HIT tells whether a candidate has been emitted, and with SCAN_MODE = FIRST the scan goes on
only while none has. -/
abbrev State.HitInv (s : State) : Prop :=
  s.hit = decide (0 < s.reportsSent) ∧ (s.scanMode = .first → s.reportsSent = 0)

/-- R131 in SCAN: no more pad requests, stream bytes and reports than the positions below IDX allow; accepted positions
are at least two apart. -/
abbrev State.ScanIter (s : State) : Prop :=
  s.HitInv ∧
    s.padRequests ≤ padPositions s.clen.toNat s.idx.toNat ∧
    s.bytesConsumed ≤ s.clen.toNat + padBudget s.clen.toNat s.idx.toNat ∧
    2 * s.reportsSent ≤ padPositions s.clen.toNat s.idx.toNat + 1 ∧
    (2 * s.reportsSent = padPositions s.clen.toNat s.idx.toNat + 1 →
      s.chunk.read s.clen s.idx.toNat ≠ .ok Config.stx)

/-- R131 in PAD: the pad request of position IDX has been issued, its bytes have not come. -/
abbrev State.PadIter (s : State) : Prop :=
  s.HitInv ∧
    s.padRequests ≤ padPositions s.clen.toNat (s.idx.toNat + 1) ∧
    s.bytesConsumed ≤ s.clen.toNat + padBudget s.clen.toNat s.idx.toNat ∧
    2 * s.reportsSent ≤ padPositions s.clen.toNat s.idx.toNat

/-- R131 in CAND: the pad bytes of position IDX have come. -/
abbrev State.CandIter (s : State) : Prop :=
  s.HitInv ∧
    s.padRequests ≤ padPositions s.clen.toNat (s.idx.toNat + 1) ∧
    s.bytesConsumed ≤ s.clen.toNat + padBudget s.clen.toNat (s.idx.toNat + 1) ∧
    2 * s.reportsSent ≤ padPositions s.clen.toNat s.idx.toNat

/-- R131: what the iteration in progress has done, by control state. -/
def State.IterInv (s : State) : Prop :=
  match s.st with
  | .poll => iteration s.log = []
  | .fast => s.padRequests = 0 ∧ s.bytesConsumed = s.clen.toNat ∧ s.reportsSent = 0
  | .scan => s.ScanIter
  | .pad => s.PadIter
  | .cand => s.CandIter

/-- R131: the most steps before the block is back in POLL, counting none of its waits: three for each position not yet
scanned (hit, pad, check) and one for SCAN_END; position 0 of a full chunk needs no pad. -/
def State.stepsLeft (s : State) : Nat :=
  match s.st with
  | .poll => 35
  | .fast => 34
  | .scan =>
    3 * (s.clen.toNat - s.idx.toNat) + 1 -
      (if s.idx.toNat = 0 ∧ s.clen.toNat = Config.frameLen then 1 else 0)
  | .pad => 3 * (s.clen.toNat - s.idx.toNat)
  | .cand => 3 * (s.clen.toNat - s.idx.toNat) - 1

/-! ## What a step may depend on (R32, R156) -/

/-- R32, R25: two states agree on everything a later step can read: in POLL no register but `st` and `OUT`; in FAST the
chunk's live elements too; on the slow path IDX and HIT too; in PAD and CAND the candidate's live elements too, and in
PAD the count NEED. -/
abbrev State.Agree (s t : State) : Prop :=
  s.st = t.st ∧ s.out = t.out ∧ s.inputs = t.inputs ∧ s.log = t.log ∧ s.inflight = t.inflight ∧
  s.scanMode = t.scanMode ∧ s.traceEn = t.traceEn ∧
  (s.st ≠ .poll → s.clen = t.clen ∧ s.chunk.seq s.clen = t.chunk.seq t.clen) ∧
  (s.st = .scan ∨ s.st = .pad ∨ s.st = .cand → s.idx = t.idx ∧ s.hit = t.hit) ∧
  (s.st = .pad → s.need = t.need) ∧
  (s.st = .pad ∨ s.st = .cand → s.candLen = t.candLen ∧ s.cand.seq s.candLen = t.cand.seq t.candLen)

/-- Two outcomes of a step agree: next states that agree, or the same stop. -/
def AgreeOut : Out → Out → Prop
  | .next s, .next t => s.Agree t
  | .fault f, .fault g => f = g
  | .refused r, .refused q => r = q
  | .next _, .fault _ => False
  | .next _, .refused _ => False
  | .fault _, .next _ => False
  | .fault _, .refused _ => False
  | .refused _, .next _ => False
  | .refused _, .fault _ => False

/-- R156: the state without a trace port and without the trace events logged so far. -/
def State.untraced (s : State) : State := { s with log := observe s.log, traceEn := false }

/-- A function of states, applied to the next state of an outcome. -/
def mapNext (f : State → State) : Out → Out
  | .next s => .next (f s)
  | .fault r => .fault r
  | .refused r => .refused r

end Sys2Proof.Machine
end

