-- ==== Sys2Proof/Certificates/Slice0/Obligations.lean ====
section
/-! DEFINITION. What this row states of the block: one Prop a statement, from the spec's numbered rules. -/

open Sys2Proof Sys2Proof.Machine

/-! ## The frame format and the operation words -/

/-- R74: `FrameOK(C) = (len(C) = 11) and (C[0] = 0x02) and (C[1] = 0x08) and (C[10] = 0x03)`. -/
def Obligations.FrameOKIsTheFourTests : Prop :=
  ∀ w : List Byte,
    frameOK w = true ↔
      w.length = 11 ∧ w[0]? = some 0x02 ∧ w[1]? = some 0x08 ∧ w[10]? = some 0x03

/-- R72: the packed view has F[0] in bits 87..80 and F[10] in bits 7..0; match and mask are the table's; the pattern
holds of an 11-byte sequence exactly when FrameOK does. -/
def Obligations.PackedPatternIsFrameOK : Prop :=
  frameMatch = 0x0208000000000000000003#88 ∧ frameMask = 0xFFFF0000000000000000FF#88 ∧
  ∀ w : List Byte, w.length = 11 →
    (∀ i, i < 11 → w[i]? = some ((packFrame w).extractLsb' (8 * (10 - i)) 8)) ∧
    ((packFrame w &&& frameMask = frameMatch) ↔ frameOK w = true)

/-- R58: the packed view of a report has r0 in bits 63..56 and r7 in bits 7..0. -/
def Obligations.PackedReportView : Prop :=
  ∀ r : List Byte, r.length = 8 →
    ∀ i, i < 8 → r[i]? = some ((packReport r).extractLsb' (8 * (7 - i)) 8)

/-- R75: `Payload(C)[j] = C[j+2]`, j in 0..7, 8 bytes. -/
def Obligations.PayloadIsBytesTwoToNine : Prop :=
  ∀ w : List Byte, frameOK w = true →
    (payload w).length = 8 ∧ ∀ j, j < 8 → (payload w)[j]? = w[j + 2]?

/-- R84: `NEED = 11 - (CLEN - IDX)`; it is 0..10 and never wraps, and is 0 exactly when IDX = 0 and CLEN = 11. The
range is an inference the spec marks as its own (`[derived: from 10_state.md rule R33]`). -/
def Obligations.PadCountFormula : Prop :=
  ∀ clen idx : Count, idx.toNat < clen.toNat → clen.toNat ≤ 11 →
    (padCount clen idx).toNat = 11 - (clen.toNat - idx.toNat) ∧
    (padCount clen idx).toNat ≤ 10 ∧
    ((padCount clen idx).toNat = 0 ↔ idx.toNat = 0 ∧ clen.toNat = 11)

/-- Every well-formed operation's word decodes to it (the words of R81's rows, the response's bytes with it). -/
def Obligations.DecodeOfEncode : Prop :=
  ∀ i : Instr, i.wf = true → decode (encode i) = .ok i

/-- A RESP word in POLL or PAD has one meaning: it is the word of the operation it decodes to (R77). The layout of the
count byte is the model's choice (assumption 6). -/
def Obligations.EncodeOfDecodedResponse : Prop :=
  ∀ (c : Ctrl) (bytes : List Byte) (i : Instr), c = .poll ∨ c = .pad →
    decode ⟨.at c, bytes⟩ = .ok i → encode i = ⟨.at c, bytes⟩

/-- The decoder answers well-formed operations only, on any bytes. -/
def Obligations.DecodedIsWellFormed : Prop :=
  ∀ (w : OpWord) (i : Instr), decode w = .ok i → i.wf = true

/-- The operation map R81 on the words of each format: RST, RESP in POLL and PAD, F11 in FAST and CAND, BYTE and no byte
in SCAN; a sequence longer than 11 and a response longer than its state's largest request are no operation. -/
def Obligations.OperationMapOfWords : Prop :=
  (∀ b : Byte, decode ⟨.rst, [b]⟩ =
    if b.getLsbD 0 then .ok .reset else .error .resetNotAsserted) ∧
  (∀ d : List Byte, d.length ≤ 11 → decode ⟨.at .poll, encodeResp d⟩ =
    .ok (if d.length = 0 then .pollEmpty else .pollCapture d)) ∧
  (∀ d : List Byte, d.length ≤ 10 → decode ⟨.at .pad, encodeResp d⟩ = .ok (.padFill d)) ∧
  (∀ w : List Byte, w.length ≤ 11 → decode ⟨.at .fast, w⟩ =
    .ok (if frameOK w then .fastAccept else .fastReject)) ∧
  (∀ w : List Byte, w.length ≤ 11 → decode ⟨.at .cand, w⟩ =
    .ok (if frameOK w then .candAccept else .candReject)) ∧
  decode ⟨.at .scan, []⟩ = .ok .scanEnd ∧
  (∀ b : Byte, decode ⟨.at .scan, [b]⟩ = .ok (if b = 0x02 then .scanHit else .scanSkip)) ∧
  (∀ w : List Byte, 11 < w.length →
    decode ⟨.at .fast, w⟩ = .error .sequenceTooLong ∧ decode ⟨.at .cand, w⟩ = .error .sequenceTooLong) ∧
  (∀ d : List Byte, 11 < d.length → d.length < 16 →
    decode ⟨.at .poll, encodeResp d⟩ = .error .responseTooLong) ∧
  (∀ d : List Byte, 10 < d.length → d.length < 16 →
    decode ⟨.at .pad, encodeResp d⟩ = .error .responseTooLong)

/-- Words of the table, written out (30_encoding.md R72, R77, R79, R81): each decodes to its row's operation. -/
def Obligations.TableWordsDecode : Prop :=
  decode ⟨.rst, [0b00000001]⟩ = .ok .reset ∧
  decode ⟨.at .poll, [0b00000000]⟩ = .ok .pollEmpty ∧
  decode ⟨.at .poll, [0b00000011, 0xFF, 0x02, 0x08]⟩ = .ok (.pollCapture [0xFF, 0x02, 0x08]) ∧
  decode ⟨.at .fast, [0x02, 0x08, 0x04, 0x00, 0x05, 0x00, 0x00, 0x00, 0x00, 0x00, 0x03]⟩ = .ok .fastAccept ∧
  decode ⟨.at .fast, [0x02, 0x07, 0x04, 0x00, 0x00, 0x00, 0x00, 0x00, 0x00, 0x00, 0x03]⟩ = .ok .fastReject ∧
  decode ⟨.at .scan, [0b00000010]⟩ = .ok .scanHit ∧
  decode ⟨.at .scan, [0b00000011]⟩ = .ok .scanSkip ∧
  decode ⟨.at .pad, [0b00000010, 0x00, 0x03]⟩ = .ok (.padFill [0x00, 0x03]) ∧
  decode ⟨.at .cand, [0x02, 0x08, 0x0B, 0x00, 0x00, 0x00, 0x00, 0x00, 0x03, 0x00, 0x03]⟩ = .ok .candAccept ∧
  decode ⟨.at .cand, [0x02, 0xFF, 0x02, 0x08, 0x00]⟩ = .ok .candReject

/-! ## What each operation does: its completion, its result and its frame -/

/-- R102: POLL_EMPTY logs the empty response and issues the next poll request; no buffer or counter is written. -/
def Obligations.PollEmptyResult : Prop :=
  ∀ s : State, s.st = .poll → s.out = .req 11#4 →
    ∃ t, exec .pollEmpty s = .next t ∧
      { t with inputs := s.inputs } = { s with
        log := s.log ++ [.readResp [], .readReq 11#4]
        st := .poll
        out := .req 11#4 }

/-- R103: POLL_CAPTURE puts the response in CHUNK in arrival order and its length in CLEN, and goes to FAST; a response
longer than 11 has no move. -/
def Obligations.PollCaptureResult : Prop :=
  ∀ (s : State) (d : List Byte), s.st = .poll → s.out = .req 11#4 → 1 ≤ d.length →
    (11 < d.length → ∀ t, exec (.pollCapture d) s ≠ .next t) ∧
    (d.length ≤ 11 → ∃ (chunk : Buffer) (t : State), exec (.pollCapture d) s = .next t ∧
      { t with inputs := s.inputs } = { s with
        log := s.log ++ [.readResp d]
        out := .none
        chunk := chunk
        clen := BitVec.ofNat 4 d.length
        st := .fast } ∧
      chunk.seq (BitVec.ofNat 4 d.length) = .ok d ∧
      ∀ i, d.length ≤ i → chunk[i]? = s.chunk[i]?)

/-- R104: FAST_ACCEPT sends the report CHUNK[2..9] and issues the next poll request; CHUNK and CLEN are left. -/
def Obligations.FastAcceptResult : Prop :=
  ∀ (s : State) (w : List Byte), s.st = .fast → s.chunk.seq s.clen = .ok w → frameOK w = true →
    ∃ t, exec .fastAccept s = .next t ∧
      { t with inputs := s.inputs } = { s with
        log := s.log ++ [.report (payload w), .readReq 11#4]
        st := .poll
        out := .req 11#4 }

/-- R105: FAST_REJECT clears HIT and IDX and goes to SCAN; no report, no other event but a trace. -/
def Obligations.FastRejectResult : Prop :=
  ∀ (s : State) (w : List Byte), s.st = .fast → s.chunk.seq s.clen = .ok w → frameOK w = false →
    ∃ t, exec .fastReject s = .next t ∧ observe t.log = observe s.log ∧
      { t with inputs := s.inputs, log := s.log } = { s with
        hit := false
        idx := 0
        st := .scan }

/-- R120: SCAN_END issues the next poll request; the chunk is dropped. -/
def Obligations.ScanEndResult : Prop :=
  ∀ s : State, s.st = .scan → s.idx = s.clen →
    ∃ t, exec .scanEnd s = .next t ∧
      { t with inputs := s.inputs } = { s with
        log := s.log ++ [.readReq 11#4]
        st := .poll
        out := .req 11#4 }

/-- R121: SCAN_SKIP moves IDX on by one; every byte but 0x02 is skipped. -/
def Obligations.ScanSkipResult : Prop :=
  ∀ (s : State) (b : Byte), s.st = .scan → s.idx ≠ s.clen →
    s.chunk.read s.clen s.idx.toNat = .ok b → b ≠ 0x02 →
    ∃ t, exec .scanSkip s = .next t ∧ { t with inputs := s.inputs } = { s with idx := s.idx + 1 }

/-- R122: SCAN_HIT copies the chunk from IDX on to CAND, sets CANDLEN = CLEN - IDX and NEED = 11 - (CLEN - IDX), and
requests the pad (to PAD) when NEED > 0, else goes to CAND; CHUNK and IDX stay. -/
def Obligations.ScanHitResult : Prop :=
  ∀ (s : State) (w : List Byte), s.st = .scan → s.chunk.seq s.clen = .ok w →
    s.idx.toNat < s.clen.toNat → s.chunk.read s.clen s.idx.toNat = .ok 0x02 →
    ∃ (cand : Buffer) (t : State), exec .scanHit s = .next t ∧
      cand.seq (s.clen - s.idx) = .ok (w.drop s.idx.toNat) ∧
      (∀ i, s.clen.toNat - s.idx.toNat ≤ i → cand[i]? = s.cand[i]?) ∧
      (s.clen - s.idx).toNat = s.clen.toNat - s.idx.toNat ∧
      (padCount s.clen s.idx).toNat = 11 - (s.clen.toNat - s.idx.toNat) ∧
      (0 < (padCount s.clen s.idx).toNat →
        { t with inputs := s.inputs } = { s with
          log := s.log ++ [.readReq (padCount s.clen s.idx)]
          cand := cand
          candLen := s.clen - s.idx
          need := padCount s.clen s.idx
          out := .req (padCount s.clen s.idx)
          st := .pad }) ∧
      ((padCount s.clen s.idx).toNat = 0 →
        { t with inputs := s.inputs } = { s with
          cand := cand
          candLen := s.clen - s.idx
          need := padCount s.clen s.idx
          st := .cand })

/-- R123: PAD_FILL appends the response to the candidate and goes to CAND; a short or empty response is normal, one longer
than NEED has no move. -/
def Obligations.PadFillResult : Prop :=
  ∀ (s : State) (u d : List Byte), s.st = .pad → s.out = .req s.need → s.cand.seq s.candLen = .ok u →
    s.need.toNat = 11 - s.candLen.toNat →
    (s.need.toNat < d.length → ∀ t, exec (.padFill d) s ≠ .next t) ∧
    (d.length ≤ s.need.toNat → ∃ (cand : Buffer) (t : State), exec (.padFill d) s = .next t ∧
      cand.seq (s.candLen + BitVec.ofNat 4 d.length) = .ok (u ++ d) ∧
      (∀ i, s.candLen.toNat + d.length ≤ i → cand[i]? = s.cand[i]?) ∧
      (s.candLen + BitVec.ofNat 4 d.length).toNat = s.candLen.toNat + d.length ∧
      { t with inputs := s.inputs } = { s with
        log := s.log ++ [.readResp d]
        out := .none
        cand := cand
        candLen := s.candLen + BitVec.ofNat 4 d.length
        st := .cand })

/-- R124: CAND_ACCEPT sends the report CAND[2..9] and sets HIT; with SCAN_MODE = ALL the scan goes on at IDX + 1, with
FIRST the iteration ends with the next poll request. No other event but a trace. -/
def Obligations.CandAcceptResult : Prop :=
  ∀ (s : State) (w : List Byte), s.st = .cand → s.cand.seq s.candLen = .ok w → frameOK w = true →
    ∃ t, exec .candAccept s = .next t ∧
      (s.scanMode = .all → observe t.log = observe s.log ++ [.report (payload w)] ∧
        { t with inputs := s.inputs, log := s.log } = { s with
          hit := true
          idx := s.idx + 1
          st := .scan }) ∧
      (s.scanMode = .first → observe t.log = observe s.log ++ [.report (payload w), .readReq 11#4] ∧
        { t with inputs := s.inputs, log := s.log } = { s with
          hit := true
          st := .poll
          out := .req 11#4 })

/-- R125: CAND_REJECT moves IDX on by one and goes to SCAN; no report, no other event but a trace. -/
def Obligations.CandRejectResult : Prop :=
  ∀ (s : State) (w : List Byte), s.st = .cand → s.cand.seq s.candLen = .ok w → frameOK w = false →
    ∃ t, exec .candReject s = .next t ∧ observe t.log = observe s.log ∧
      { t with inputs := s.inputs, log := s.log } = { s with
        idx := s.idx + 1
        st := .scan }

/-- R190, R191: RESET in any state logs Reset, sets every register to its reset value (the buffers hold no value) and
issues the poll request; the machine after power-on holds the same values. -/
def Obligations.ResetResult : Prop :=
  State.reset.AtReset ∧
  ∀ s : State, ∃ t : State, exec .reset s = .next t ∧ t.AtReset ∧
    t.log = s.log ++ [.reset, .readReq 11#4] ∧ t.scanMode = s.scanMode ∧ t.traceEn = s.traceEn

/-- The model's choices at a reset: it draws RESET_INFLIGHT (R192) exactly when it finds a request outstanding, and the
draw is the free value of that reset (assumption 3); the buffers' storage is emptied (assumption 9). -/
def Obligations.ResetDrawsAndEmpties : Prop :=
  ∀ s t : State, exec .reset s = .next t →
    (s.out = .none → t.inflight = s.inflight) ∧
    (∀ n, s.out = .req n → t.inflight = s.inflight ++ [Config.resetInflight s.inflight.length]) ∧
    t.chunk = Buffer.empty ∧ t.cand = Buffer.empty

/-- R81: an operation's row applies in its own control state only; elsewhere the model refuses it (the model's choice
of an outcome, assumption 8). -/
def Obligations.RowsApplyInTheirStateOnly : Prop :=
  ∀ (s : State) (i : Instr),
    ((i = .pollEmpty ∨ ∃ d, i = .pollCapture d) ∧ s.st ≠ .poll ∨
      (i = .fastAccept ∨ i = .fastReject) ∧ s.st ≠ .fast ∨
      (i = .scanEnd ∨ i = .scanHit ∨ i = .scanSkip) ∧ s.st ≠ .scan ∨
      (∃ d, i = .padFill d) ∧ s.st ≠ .pad ∨
      (i = .candAccept ∨ i = .candReject) ∧ s.st ≠ .cand) →
    exec i s = .refused .rowNotSelected

/-! ## A step -/

/-- A step runs the operation decoded from what it sees (R10, R81), and lets exactly one entry of the input list pass
(that list is the model's own, assumption 1). -/
def Obligations.StepRunsDecodedOperation : Prop :=
  ∀ (s : State) (w : OpWord) (i : Instr), see s = .word w → decode w = .ok i →
    step s = exec i s ∧ ∀ t, step s = .next t → t.inputs = s.inputs.tail

/-- R81: the operation map, row by row, of a step. -/
def Obligations.OperationMapOfStep : Prop :=
  ∀ s : State,
    (s.input.rst = true → step s = exec .reset s) ∧
    (s.input.rst = false → ∀ d, s.input.resp = some d → s.st = .poll → s.out = .req 11#4 →
      (d.length = 0 → step s = exec .pollEmpty s) ∧
      (1 ≤ d.length → d.length ≤ 11 → step s = exec (.pollCapture d) s)) ∧
    (s.input.rst = false → ∀ d, s.input.resp = some d → s.st = .pad → s.out = .req s.need →
      s.need.toNat ≤ 10 → d.length ≤ s.need.toNat → step s = exec (.padFill d) s) ∧
    (s.input.rst = false → s.input.resp = none →
      (∀ w, s.st = .fast → s.chunk.seq s.clen = .ok w →
        (frameOK w = true → step s = exec .fastAccept s) ∧
        (frameOK w = false → step s = exec .fastReject s)) ∧
      (s.st = .scan → s.idx = s.clen → step s = exec .scanEnd s) ∧
      (∀ b, s.st = .scan → s.idx ≠ s.clen → s.chunk.read s.clen s.idx.toNat = .ok b →
        (b = 0x02 → step s = exec .scanHit s) ∧
        (b ≠ 0x02 → step s = exec .scanSkip s)) ∧
      (∀ w, s.st = .cand → s.cand.seq s.candLen = .ok w →
        (frameOK w = true → step s = exec .candAccept s) ∧
        (frameOK w = false → step s = exec .candReject s)))

/-- R10 (b), R183: with no reset and no response a step of POLL or PAD waits: nothing changes but that the idle input
has passed. -/
def Obligations.StepWaitsForResponse : Prop :=
  ∀ s : State, s.input.rst = false → s.input.resp = none → (s.st = .poll ∨ s.st = .pad) →
    step s = .next { s with inputs := s.inputs.tail }

/-- R54: a response with no request outstanding, and one longer than the request, have no move. -/
def Obligations.ContractBreachHasNoMove : Prop :=
  ∀ (s : State) (d : List Byte), s.input.rst = false → s.input.resp = some d →
    (s.out = .none → step s = .refused .noRequestOutstanding) ∧
    (∀ n, s.out = .req n → n.toNat < d.length → step s = .refused .responseTooLong)

/-- R101: every step whose next state is POLL (but a wait in POLL) issues the poll request in that same step, as the last
of the events it adds to the log, and so does reset. -/
def Obligations.EveryEntryIntoPollRequestsEleven : Prop :=
  ∀ s t : State, step s = .next t → s.waits = false → t.st = .poll →
    t.out = .req 11#4 ∧ ∃ es, t.log = s.log ++ es ++ [.readReq 11#4]

/-- R172: in the states R33 admits no step raises the model fault, whatever the environment does. -/
def Obligations.NoStepRaisesTheModelFault : Prop :=
  ∀ (s : State) (f : Fault), s.Inv → step s ≠ .fault f

/-- R81: in the states R33 admits, with an input that keeps the port contract, a row applies or the block waits. -/
def Obligations.ContractKeepingStepMoves : Prop :=
  ∀ s : State, s.Inv → s.inputOK = true → ∃ t, step s = .next t

/-! ## What operations write -/

/-- R22 to R28, R34, R190: which operations write which register, the parameters, the draws and the inputs. -/
def Obligations.RegistersWrittenOnlyByTheirOperations : Prop :=
  ∀ (i : Instr) (s t : State), exec i s = .next t →
    ((∀ d, i ≠ .pollCapture d) → i ≠ .reset → t.chunk = s.chunk ∧ t.clen = s.clen) ∧
    (i ≠ .fastReject → i ≠ .scanSkip → i ≠ .candAccept → i ≠ .candReject → i ≠ .reset → t.idx = s.idx) ∧
    (i ≠ .scanHit → (∀ d, i ≠ .padFill d) → i ≠ .reset → t.cand = s.cand ∧ t.candLen = s.candLen) ∧
    (i ≠ .scanHit → i ≠ .reset → t.need = s.need) ∧
    (i ≠ .fastReject → i ≠ .candAccept → i ≠ .reset → t.hit = s.hit) ∧
    (i = .fastReject ∨ i = .scanSkip ∨ i = .candReject → t.out = s.out) ∧
    (i ≠ .reset → t.inflight = s.inflight) ∧
    t.scanMode = s.scanMode ∧ t.traceEn = s.traceEn ∧ t.inputs = s.inputs.tail

/-- R35, R193: a step only adds events to the log; a reset withdraws no report and adds none. -/
def Obligations.LogOnlyGrows : Prop :=
  ∀ s t : State, step s = .next t →
    (∃ es, t.log = s.log ++ es) ∧
    (s.input.rst = true → reports t.log = reports s.log)

/-- R55: the input stream is what the responses brought, in order, since the last reset. -/
def Obligations.InputStreamIsTheResponses : Prop :=
  ∀ s t : State, step s = .next t →
    (s.input.rst = true → inputStream t.log = []) ∧
    (s.input.rst = false → inputStream t.log = inputStream s.log ++ s.input.resp.getD [])

/-- R152: a report is sent if and only if the chunk in FAST, or the candidate in CAND, satisfies FrameOK, and it is the
8 bytes at offsets 2..9 of that sequence, once. A reset sends none: it goes before the step (R176).
The rule is an inference the spec marks as its own (`[derived: from rules R104, R105, R124 and R125, ...]`). -/
def Obligations.ReportIffFrame : Prop :=
  ∀ s t : State, step s = .next t →
    (s.input.rst = true → reports t.log = reports s.log) ∧
    (s.input.rst = false →
    (∀ w, s.st = .fast → s.chunk.seq s.clen = .ok w →
      reports t.log = reports s.log ++ (if frameOK w then [(w.drop 2).take 8] else [])) ∧
    (∀ w, s.st = .cand → s.cand.seq s.candLen = .ok w →
      reports t.log = reports s.log ++ (if frameOK w then [(w.drop 2).take 8] else [])) ∧
    (s.st ≠ .fast → s.st ≠ .cand → reports t.log = reports s.log))

/-- R24, R29: IDX is set to 0 when the slow path begins, moves on by exactly one with each byte the scan has done with,
is never decremented and does not wrap. -/
def Obligations.IdxAdvancesByOne : Prop :=
  ∀ s t : State, s.Inv → step s = .next t → s.input.rst = false →
    (s.st = .fast → t.st = .scan → t.idx.toNat = 0) ∧
    (s.st ≠ .fast → t.idx = s.idx ∨ t.idx.toNat = s.idx.toNat + 1) ∧
    (∀ b, s.st = .scan → s.chunk.read s.clen s.idx.toNat = .ok b → b ≠ 0x02 →
      t.idx.toNat = s.idx.toNat + 1) ∧
    (s.st = .cand → t.st = .scan → t.idx.toNat = s.idx.toNat + 1)

/-- R155: no step logs another trace event than the spec allows. Which of the allowed ones it logs is the model's choice
(assumption 14): where there is a trace port, each of them once. -/
def Obligations.TraceEventsAreTheAllowedOnes : Prop :=
  ∀ s t : State, step s = .next t →
    (s.traceEn = false ∨ s.input.rst = true ∨ (s.st ≠ .fast ∧ s.st ≠ .cand) →
      t.log.filter Event.isTrace = s.log.filter Event.isTrace) ∧
    (s.traceEn = true → s.input.rst = false → ∀ w,
      (s.st = .fast → s.chunk.seq s.clen = .ok w →
        t.log.filter Event.isTrace =
          s.log.filter Event.isTrace ++ (if frameOK w then [] else [.trace .raw w])) ∧
      (s.st = .cand → s.cand.seq s.candLen = .ok w →
        t.log.filter Event.isTrace = s.log.filter Event.isTrace ++ [.trace .cand w]))

/-! ## Invariants -/

/-- The reset state meets the invariants. -/
def Obligations.ResetMeetsTheInvariants : Prop :=
  State.reset.Inv ∧ State.reset.PortInv ∧ State.reset.SlowInv ∧ State.reset.PadTailInv ∧ State.reset.IterInv

/-- R33: every step keeps the invariants of the reachable states. -/
def Obligations.StepKeepsTheInvariants : Prop :=
  ∀ s t : State, s.Inv → step s = .next t → t.Inv

/-- R34, R62 item 1, R76, R78: every step keeps the log an orderly conversation: no request while one is outstanding,
counts 1..11, no response without a request or longer than it, 8-byte reports while no read is outstanding; and OUT is
what is outstanding at its end. -/
def Obligations.StepKeepsThePortConversation : Prop :=
  ∀ s t : State, s.Inv → s.PortInv → step s = .next t → t.PortInv

/-- R105, R128: on the slow path the chunk is no frame and the candidate is the chunk from IDX on, then the pad: in CAND the
bytes after the chunk's are the last response, all of it. -/
def Obligations.StepKeepsTheSlowPath : Prop :=
  ∀ s t : State, s.Inv → s.SlowInv → step s = .next t → t.SlowInv ∧ t.PadTailInv

/-- R131: every step keeps the bounds on what the iteration in progress has done. -/
def Obligations.StepKeepsTheIterationBounds : Prop :=
  ∀ s t : State, s.Inv → s.SlowInv → s.IterInv → step s = .next t → t.IterInv

/-- R131: an iteration issues at most 10 pad requests, consumes at most 66 stream bytes and sends at most 5 reports on
the slow path (at most one with SCAN_MODE = FIRST: none before the report that ends it). -/
def Obligations.IterationBounds : Prop :=
  ∀ s : State, s.Inv → s.IterInv →
    s.padRequests ≤ 10 ∧ s.bytesConsumed ≤ 66 ∧ s.reportsSent ≤ 5 ∧
    (s.scanMode = .first → s.reportsSent = 0)

/-- R131: from a poll an iteration ends in at most 35 steps that are no waits: each such step that does not end it uses
one up, and there are at least that many left. -/
def Obligations.IterationEndsInThirtyFiveSteps : Prop :=
  (∀ s : State, s.Inv → 1 ≤ s.stepsLeft ∧ s.stepsLeft ≤ 35) ∧
  ∀ s t : State, s.Inv → step s = .next t → s.input.rst = false → s.waits = false →
    t.st = .poll ∨ t.stepsLeft + 1 ≤ s.stepsLeft

/-- R129: a candidate that needs no pad (IDX = 0, CLEN = 11) never passes. -/
def Obligations.FullChunkCandidateNeverPasses : Prop :=
  ∀ s : State, s.Inv → s.SlowInv → s.st = .cand → s.idx.toNat = 0 → s.clen.toNat = 11 →
    (∃ t, exec .candReject s = .next t) ∧ exec .candAccept s = .refused .rowNotSelected

/-! ## Whole iterations -/

/-- R106 item 1: an 11-byte frame answered to a poll gives exactly one report, unmodified, and the next poll. -/
def Obligations.WholeFrameGivesOneReport : Prop :=
  ∀ (s : State) (r : List Byte) (rest : List Input), s.st = .poll → s.out = .req 11#4 → r.length = 8 →
    s.inputs = ⟨false, some ([0x02, 0x08] ++ r ++ [0x03])⟩ :: Input.idle :: rest →
    ∃ t, Host.Core.run core 2 s = .next t ∧ t.st = .poll ∧ t.inputs = rest ∧
      t.log = s.log ++ [.readResp ([0x02, 0x08] ++ r ++ [0x03]), .report r, .readReq 11#4]

/-- R132: a chunk with no STX: after the capture and the fast-path check the scan skips each byte, then ends. No candidate,
no pad request, no report; then the next poll. The rule is an inference the spec marks as its own
(`[derived: from rules R120 and R121]`). -/
def Obligations.ChunkWithoutStxGivesNothing : Prop :=
  ∀ (s : State) (w : List Byte), s.st = .poll → s.out = .req 11#4 → 1 ≤ w.length → w.length ≤ 11 →
    (0x02 : Byte) ∉ w → s.inputs = [⟨false, some w⟩] →
    (∀ k, k ≤ w.length → ∃ u, Host.Core.run core (k + 2) s = .next u ∧ u.st = .scan ∧ u.idx.toNat = k) ∧
    ∃ t, Host.Core.run core (w.length + 3) s = .next t ∧ t.st = .poll ∧ t.cand = s.cand ∧
      t.candLen = s.candLen ∧ observe t.log = observe s.log ++ [.readResp w, .readReq 11#4]

/-- R133: the poll response is noise without STX, then the first m bytes of a frame F; the first candidate is at IDX = s
(the noise's length) with NEED = 11 - m, and its pad read is the first of the iteration. Whatever the pad response P,
the first report is sent exactly when the candidate, F's first m bytes and P, passes. It passes with F's report when P is
the rest of F; it does not pass exactly when P is short, or puts another byte than 0x03 at candidate offset 10, or (only
when m = 1) another than 0x08 at offset 1. The rule is an inference the spec marks as its own
(`[derived: from rules R103, R105, R121 to R124]`). -/
def Obligations.ResyncWithPadding : Prop :=
  ∀ (s : State) (noise f p : List Byte) (m : Nat), s.st = .poll → s.out = .req 11#4 →
    (0x02 : Byte) ∉ noise → frameOK f = true → 1 ≤ m → noise.length + m ≤ 11 →
    ¬(noise.length = 0 ∧ m = 11) → p.length ≤ 11 - m →
    s.inputs = ⟨false, some (noise ++ f.take m)⟩ :: List.replicate (noise.length + 2) Input.idle ++
      [⟨false, some p⟩] →
    (∃ u, Host.Core.run core (noise.length + 3) s = .next u ∧ u.st = .pad ∧ u.idx.toNat = noise.length ∧
      u.need.toNat = 11 - m) ∧
    (∃ t, Host.Core.run core (noise.length + 5) s = .next t ∧
      observe t.log = observe s.log ++
        [.readResp (noise ++ f.take m), .readReq (BitVec.ofNat 4 (11 - m)), .readResp p] ++
        (if frameOK (f.take m ++ p) then
          .report (payload (f.take m ++ p)) :: (if s.scanMode = .first then [.readReq 11#4] else [])
        else [])) ∧
    (p = f.drop m → frameOK (f.take m ++ p) = true ∧ payload (f.take m ++ p) = payload f) ∧
    (frameOK (f.take m ++ p) = false ↔
      p.length < 11 - m ∨ p[10 - m]? ≠ some 0x03 ∨ m = 1 ∧ p[0]? ≠ some 0x08)

/-- R122 to R125, R128 and the core of R134, for any candidate of a scan, earlier candidates or not: an STX at IDX whose
candidate needs a pad is answered by three steps (hit, pad, check). The pad request is for 11 - (CLEN - IDX) bytes, and
with the pad response it is what they log but for the report and, where FIRST ends the iteration, the poll request. A
report is sent exactly when the chunk bytes from IDX on, then the pad response, are a frame, and it is that frame's; the
chunk stays, and the scan goes on at IDX + 1 unless SCAN_MODE = FIRST ended the iteration. -/
def Obligations.CandidateSendsExactlyItsFrame : Prop :=
  ∀ (s : State) (w p : List Byte) (rest : List Input), s.Inv → s.st = .scan →
    s.chunk.seq s.clen = .ok w → s.chunk.read s.clen s.idx.toNat = .ok 0x02 →
    0 < (padCount s.clen s.idx).toNat → p.length ≤ (padCount s.clen s.idx).toNat →
    s.inputs = Input.idle :: ⟨false, some p⟩ :: Input.idle :: rest →
    (padCount s.clen s.idx).toNat = 11 - (s.clen.toNat - s.idx.toNat) ∧
    ∃ t, Host.Core.run core 3 s = .next t ∧ t.inputs = rest ∧ t.chunk = s.chunk ∧ t.clen = s.clen ∧
      observe t.log = observe s.log ++ [.readReq (padCount s.clen s.idx), .readResp p] ++
        (if frameOK (w.drop s.idx.toNat ++ p) then
          .report (payload (w.drop s.idx.toNat ++ p)) ::
            (if s.scanMode = .first then [.readReq 11#4] else [])
        else []) ∧
      (frameOK (w.drop s.idx.toNat ++ p) = true →
        reports t.log = reports s.log ++ [payload (w.drop s.idx.toNat ++ p)]) ∧
      (frameOK (w.drop s.idx.toNat ++ p) = false → reports t.log = reports s.log) ∧
      (frameOK (w.drop s.idx.toNat ++ p) = false ∨ s.scanMode = .all →
        t.st = .scan ∧ t.idx.toNat = s.idx.toNat + 1 ∧
          inputStream t.log = inputStream s.log ++ p) ∧
      (frameOK (w.drop s.idx.toNat ++ p) = true → s.scanMode = .first → t.st = .poll)

/-! ## What a step may depend on -/

/-- R25, R32, R130: a step depends on the live registers only: not on an element of a buffer at or past its length, and in
SCAN not on the candidate or its pad bytes. Two states that agree on what is live step alike. -/
def Obligations.DeadRegistersNeverMatter : Prop :=
  ∀ s t : State, s.Inv → t.Inv → s.Agree t → AgreeOut (step s) (step t)

/-- R32: in POLL no register but `st` and `OUT` is live: whatever the others hold, every later observation is the
same. The rule is an inference the spec marks as its own (`[derived: from rules R103, R105 and R122; ...]`). -/
def Obligations.NothingIsCarriedIntoAnIteration : Prop :=
  ∀ (n : Nat) (s t : State), s.Inv → t.Inv → s.st = .poll → t.st = .poll → s.out = t.out →
    s.inputs = t.inputs → s.log = t.log → s.inflight = t.inflight → s.scanMode = t.scanMode →
    s.traceEn = t.traceEn → AgreeOut (Host.Core.run core n s) (Host.Core.run core n t)

/-- R156: the trace has no effect on the block: removing the port and its events commutes with a step. -/
def Obligations.TraceHasNoEffect : Prop :=
  ∀ s : State, step s.untraced = mapNext State.untraced (step s)

/-! ## The opcode table's words -/

/-- An opcode-table word placed by withFetchWord is what the next step sees (the reading of a table word is the model's
choice, assumption 7). -/
def Obligations.PlacedTableWordIsSeen : Prop :=
  ∀ (s : State) (nbits w : Nat), see (s.withFetchWord nbits w) = .word (tableWord nbits w)
end

