-- ==== Sys2Proof/Laws/Buffer.lean ====
section
/-! SUPPORT. What the buffer operations do (R25): one lemma an operation, cited by the proofs instead of the
definitions. -/

namespace Sys2Proof.Machine

/-- A count of at most 11 is itself in 4 bits. -/
theorem toNat_countOf (n : Nat) (h : n ≤ Config.frameLen) : (Count.of n).toNat = n := by
  have h' : n ≤ 11 := h
  rw [Count.of, BitVec.toNat_ofNat]; omega

/-- R123, R126: `CANDLEN + len(P)` does not wrap. -/
theorem toNat_add_countOf (len : Count) (n : Nat) (h : len.toNat + n ≤ Config.frameLen) :
    (len + Count.of n).toNat = len.toNat + n := by
  have h' : len.toNat + n ≤ 11 := h
  rw [BitVec.toNat_add, Count.of, BitVec.toNat_ofNat]; omega

/-- A read answers a byte exactly at a live index whose element holds it. -/
theorem Buffer.read_eq_ok (b : Buffer) (len : Count) (i : Nat) (x : Byte) :
    b.read len i = .ok x ↔ i < len.toNat ∧ b[i]? = some (some x) := by
  unfold Buffer.read
  split
  · next h =>
    split
    · next y hy => simp [h, hy]
    · next hn =>
      simp only [reduceCtorEq, h, true_and, false_iff]
      exact fun hx => hn x hx
  · next h => simp [h]

/-- A read that stops, stops with MF_UNWRITTEN. -/
theorem Buffer.read_eq_error (b : Buffer) (len : Count) (i : Nat) (f : Fault)
    (h : b.read len i = .error f) : f = .unwritten := by
  cases f; rfl

/-- A slice answers the bytes of its elements, all of them live. -/
theorem Buffer.slice_eq_ok (b : Buffer) (len : Count) (n : Nat) : ∀ (lo : Nat) (w : List Byte),
    b.slice len lo n = .ok w ↔
      w.length = n ∧ ∀ j x, w[j]? = some x → b.read len (lo + j) = .ok x := by
  induction n with
  | zero =>
    intro lo w
    simp only [Buffer.slice, Except.ok.injEq, List.length_eq_zero_iff]
    constructor
    · rintro rfl; simp
    · rintro ⟨rfl, -⟩; rfl
  | succ n ih =>
    intro lo w
    simp only [Buffer.slice]
    split
    · next x xs hx hxs =>
      have hx' := (ih (lo + 1) xs).1 hxs
      simp only [Except.ok.injEq]
      constructor
      · rintro rfl
        refine ⟨by simp [hx'.1], fun j y hj => ?_⟩
        cases j with
        | zero => simpa [hx] using hj
        | succ j =>
          have := hx'.2 j y (by simpa using hj)
          simpa [Nat.add_assoc, Nat.add_comm 1 j] using this
      · rintro ⟨hl, hr⟩
        cases w with
        | nil => simp at hl
        | cons y ys =>
          have h0 : b.read len lo = .ok y := by simpa using hr 0 y rfl
          have hys : b.slice len (lo + 1) n = .ok ys := by
            refine (ih (lo + 1) ys).2 ⟨by simpa using hl, fun j z hj => ?_⟩
            have := hr (j + 1) z (by simpa using hj)
            simpa [Nat.add_assoc, Nat.add_comm 1 j] using this
          rw [hx] at h0; rw [hxs] at hys
          simp only [Except.ok.injEq] at h0 hys
          rw [h0, hys]
    · next f _ hx =>
      simp only [reduceCtorEq, false_iff, not_and]
      intro hl hr
      cases w with
      | nil => simp at hl
      | cons y ys =>
        have := hr 0 y rfl
        simp [hx] at this
    · next x f hx hxs =>
      simp only [reduceCtorEq, false_iff, not_and]
      intro hl hr
      cases w with
      | nil => simp at hl
      | cons y ys =>
        have hys : b.slice len (lo + 1) n = .ok ys := by
          refine (ih (lo + 1) ys).2 ⟨by simpa using hl, fun j z hj => ?_⟩
          have := hr (j + 1) z (by simpa using hj)
          simpa [Nat.add_assoc, Nat.add_comm 1 j] using this
        simp [hxs] at hys

/-- The whole sequence has CLEN (CANDLEN) bytes, each that of its element. -/
theorem Buffer.seq_eq_ok (b : Buffer) (len : Count) (w : List Byte) :
    b.seq len = .ok w ↔
      w.length = len.toNat ∧ ∀ (j : Nat) (x : Byte), w[j]? = some x → b[j]? = some (some x) := by
  unfold Buffer.seq
  rw [Buffer.slice_eq_ok]
  refine and_congr_right fun hl => ⟨fun h j x hj => ?_, fun h j x hj => ?_⟩
  · simpa using ((Buffer.read_eq_ok ..).1 (h j x hj)).2
  · rw [Nat.zero_add, Buffer.read_eq_ok]
    exact ⟨by have := (List.getElem?_eq_some_iff.1 hj).1; omega, h j x hj⟩

/-- A whole sequence has at most 11 bytes (R83). -/
theorem Buffer.seq_len_le (b : Buffer) (len : Count) (w : List Byte) (h : b.seq len = .ok w) :
    len.toNat ≤ Config.frameLen := by
  obtain ⟨hl, hr⟩ := (b.seq_eq_ok len w).1 h
  by_contra hn
  have hj : Config.frameLen < w.length := by omega
  have := hr Config.frameLen w[Config.frameLen] (by simp [hj])
  simp at this

/-- Reading below the length register reads the sequence. -/
theorem Buffer.read_of_seq (b : Buffer) (len : Count) (w : List Byte) (i : Nat) (h : b.seq len = .ok w)
    (hi : i < len.toNat) : ∃ x, w[i]? = some x ∧ b.read len i = .ok x := by
  obtain ⟨hl, hr⟩ := (b.seq_eq_ok len w).1 h
  refine ⟨w[i], by simp, ?_⟩
  rw [Buffer.read_eq_ok]
  exact ⟨hi, hr i _ (by simp)⟩

/-- The slice from `lo` to the end of the sequence. -/
theorem Buffer.slice_of_seq (b : Buffer) (len : Count) (w : List Byte) (lo : Nat) (h : b.seq len = .ok w) :
    b.slice len lo (len.toNat - lo) = .ok (w.drop lo) := by
  obtain ⟨hl, hr⟩ := (b.seq_eq_ok len w).1 h
  rw [Buffer.slice_eq_ok]
  refine ⟨by simp [hl], fun j x hj => ?_⟩
  rw [List.getElem?_drop] at hj
  rw [Buffer.read_eq_ok]
  exact ⟨by have := (List.getElem?_eq_some_iff.1 hj).1; omega, hr _ _ hj⟩

/-- What a write leaves at each element: the bytes written from `off` on, and every other element as before. -/
theorem Buffer.write_getElem? (w : List Byte) : ∀ (b : Buffer) (off i : Nat),
    (b.write off w)[i]? =
      if off ≤ i ∧ i < off + w.length ∧ i < Config.frameLen then some w[i - off]? else b[i]? := by
  induction w with
  | nil => intro b off i; simp [Buffer.write]; intros; omega
  | cons x xs ih =>
    intro b off i
    rw [Buffer.write, ih]
    by_cases h1 : off + 1 ≤ i ∧ i < off + 1 + xs.length ∧ i < Config.frameLen
    · rw [if_pos h1, if_pos ⟨by omega, by simp; omega, h1.2.2⟩]
      obtain ⟨k, rfl⟩ : ∃ k, i = off + 1 + k := ⟨i - (off + 1), by omega⟩
      simp [show off + 1 + k - off = k + 1 by omega]
    · rw [if_neg h1, Vector.getElem?_setIfInBounds]
      by_cases h2 : off = i
      · subst h2
        by_cases h3 : off < Config.frameLen
        · simp [h3]
        · simp [h3]
      · rw [if_neg h2, if_neg]
        simp only [List.length_cons]; omega

/-- R103, R122: a run written from element 0 on, with its length, is the sequence. -/
theorem Buffer.seq_write_zero (b : Buffer) (w : List Byte) (h : w.length ≤ Config.frameLen) :
    (b.write 0 w).seq (Count.of w.length) = .ok w := by
  rw [Buffer.seq_eq_ok]
  refine ⟨(toNat_countOf _ h).symm, fun j x hj => ?_⟩
  have hj' := (List.getElem?_eq_some_iff.1 hj).1
  rw [Buffer.write_getElem?, if_pos ⟨Nat.zero_le _, by omega, by omega⟩]
  simp [hj]

/-- R123: a run appended to the sequence, with the sum of the lengths, is the sequence and then the run. -/
theorem Buffer.seq_write_append (b : Buffer) (len : Count) (u w : List Byte) (hu : b.seq len = .ok u)
    (h : len.toNat + w.length ≤ Config.frameLen) :
    (b.write len.toNat w).seq (len + Count.of w.length) = .ok (u ++ w) := by
  obtain ⟨hl, hr⟩ := (b.seq_eq_ok len u).1 hu
  rw [Buffer.seq_eq_ok]
  refine ⟨by rw [List.length_append, hl, toNat_add_countOf _ _ h], fun j x hj => ?_⟩
  have hj' := (List.getElem?_eq_some_iff.1 hj).1
  simp only [List.length_append] at hj'
  rw [Buffer.write_getElem?]
  by_cases hc : j < u.length
  · rw [if_neg (by omega)]
    rw [List.getElem?_append_left hc] at hj
    exact hr j x hj
  · rw [if_pos ⟨by omega, by omega, by omega⟩]
    rw [List.getElem?_append_right (by omega), hl] at hj
    rw [hj]

/-- `held` says that the sequence can be read. -/
theorem Buffer.held_iff (b : Buffer) (len : Count) : b.held len = true ↔ ∃ w, b.seq len = .ok w := by
  unfold Buffer.held
  split
  · next w h => simp [h]
  · next f h => simp [h]

end Sys2Proof.Machine
end

