-- ==== Sys2Proof/Laws/State.lean ====
section
/-! SUPPORT. For every update of State, one lemma a field, true by rfl: no later proof unfolds a record update. -/

namespace Sys2Proof.Machine

variable (s : State)

/-! ## `State.tick` -/

@[simp] theorem State.tick_st : s.tick.st = s.st := rfl
@[simp] theorem State.tick_chunk : s.tick.chunk = s.chunk := rfl
@[simp] theorem State.tick_clen : s.tick.clen = s.clen := rfl
@[simp] theorem State.tick_idx : s.tick.idx = s.idx := rfl
@[simp] theorem State.tick_cand : s.tick.cand = s.cand := rfl
@[simp] theorem State.tick_candLen : s.tick.candLen = s.candLen := rfl
@[simp] theorem State.tick_need : s.tick.need = s.need := rfl
@[simp] theorem State.tick_hit : s.tick.hit = s.hit := rfl
@[simp] theorem State.tick_out : s.tick.out = s.out := rfl
@[simp] theorem State.tick_inputs : s.tick.inputs = s.inputs.tail := rfl
@[simp] theorem State.tick_log : s.tick.log = s.log := rfl
@[simp] theorem State.tick_inflight : s.tick.inflight = s.inflight := rfl
@[simp] theorem State.tick_scanMode : s.tick.scanMode = s.scanMode := rfl
@[simp] theorem State.tick_traceEn : s.tick.traceEn = s.traceEn := rfl

/-! ## `State.request` -/

@[simp] theorem State.request_st (n : Count) : (s.request n).st = s.st := rfl
@[simp] theorem State.request_chunk (n : Count) : (s.request n).chunk = s.chunk := rfl
@[simp] theorem State.request_clen (n : Count) : (s.request n).clen = s.clen := rfl
@[simp] theorem State.request_idx (n : Count) : (s.request n).idx = s.idx := rfl
@[simp] theorem State.request_cand (n : Count) : (s.request n).cand = s.cand := rfl
@[simp] theorem State.request_candLen (n : Count) : (s.request n).candLen = s.candLen := rfl
@[simp] theorem State.request_need (n : Count) : (s.request n).need = s.need := rfl
@[simp] theorem State.request_hit (n : Count) : (s.request n).hit = s.hit := rfl
@[simp] theorem State.request_out (n : Count) : (s.request n).out = .req n := rfl
@[simp] theorem State.request_inputs (n : Count) : (s.request n).inputs = s.inputs := rfl
@[simp] theorem State.request_log (n : Count) : (s.request n).log = s.log ++ [.readReq n] := rfl
@[simp] theorem State.request_inflight (n : Count) : (s.request n).inflight = s.inflight := rfl
@[simp] theorem State.request_scanMode (n : Count) : (s.request n).scanMode = s.scanMode := rfl
@[simp] theorem State.request_traceEn (n : Count) : (s.request n).traceEn = s.traceEn := rfl

/-! ## `State.respond` -/

@[simp] theorem State.respond_st (data : List Byte) : (s.respond data).st = s.st := rfl
@[simp] theorem State.respond_chunk (data : List Byte) : (s.respond data).chunk = s.chunk := rfl
@[simp] theorem State.respond_clen (data : List Byte) : (s.respond data).clen = s.clen := rfl
@[simp] theorem State.respond_idx (data : List Byte) : (s.respond data).idx = s.idx := rfl
@[simp] theorem State.respond_cand (data : List Byte) : (s.respond data).cand = s.cand := rfl
@[simp] theorem State.respond_candLen (data : List Byte) : (s.respond data).candLen = s.candLen := rfl
@[simp] theorem State.respond_need (data : List Byte) : (s.respond data).need = s.need := rfl
@[simp] theorem State.respond_hit (data : List Byte) : (s.respond data).hit = s.hit := rfl
@[simp] theorem State.respond_out (data : List Byte) : (s.respond data).out = .none := rfl
@[simp] theorem State.respond_inputs (data : List Byte) : (s.respond data).inputs = s.inputs := rfl
@[simp] theorem State.respond_log (data : List Byte) : (s.respond data).log = s.log ++ [.readResp data] := rfl
@[simp] theorem State.respond_inflight (data : List Byte) : (s.respond data).inflight = s.inflight := rfl
@[simp] theorem State.respond_scanMode (data : List Byte) : (s.respond data).scanMode = s.scanMode := rfl
@[simp] theorem State.respond_traceEn (data : List Byte) : (s.respond data).traceEn = s.traceEn := rfl

/-! ## `State.sinkSend` -/

@[simp] theorem State.sinkSend_st (r : List Byte) : (s.sinkSend r).st = s.st := rfl
@[simp] theorem State.sinkSend_chunk (r : List Byte) : (s.sinkSend r).chunk = s.chunk := rfl
@[simp] theorem State.sinkSend_clen (r : List Byte) : (s.sinkSend r).clen = s.clen := rfl
@[simp] theorem State.sinkSend_idx (r : List Byte) : (s.sinkSend r).idx = s.idx := rfl
@[simp] theorem State.sinkSend_cand (r : List Byte) : (s.sinkSend r).cand = s.cand := rfl
@[simp] theorem State.sinkSend_candLen (r : List Byte) : (s.sinkSend r).candLen = s.candLen := rfl
@[simp] theorem State.sinkSend_need (r : List Byte) : (s.sinkSend r).need = s.need := rfl
@[simp] theorem State.sinkSend_hit (r : List Byte) : (s.sinkSend r).hit = s.hit := rfl
@[simp] theorem State.sinkSend_out (r : List Byte) : (s.sinkSend r).out = s.out := rfl
@[simp] theorem State.sinkSend_inputs (r : List Byte) : (s.sinkSend r).inputs = s.inputs := rfl
@[simp] theorem State.sinkSend_log (r : List Byte) : (s.sinkSend r).log = s.log ++ [.report r] := rfl
@[simp] theorem State.sinkSend_inflight (r : List Byte) : (s.sinkSend r).inflight = s.inflight := rfl
@[simp] theorem State.sinkSend_scanMode (r : List Byte) : (s.sinkSend r).scanMode = s.scanMode := rfl
@[simp] theorem State.sinkSend_traceEn (r : List Byte) : (s.sinkSend r).traceEn = s.traceEn := rfl

/-! ## `State.trace` -/

@[simp] theorem State.trace_st (kind : TraceKind) (data : List Byte) : (s.trace kind data).st = s.st := rfl
@[simp] theorem State.trace_chunk (kind : TraceKind) (data : List Byte) : (s.trace kind data).chunk = s.chunk := rfl
@[simp] theorem State.trace_clen (kind : TraceKind) (data : List Byte) : (s.trace kind data).clen = s.clen := rfl
@[simp] theorem State.trace_idx (kind : TraceKind) (data : List Byte) : (s.trace kind data).idx = s.idx := rfl
@[simp] theorem State.trace_cand (kind : TraceKind) (data : List Byte) : (s.trace kind data).cand = s.cand := rfl
@[simp] theorem State.trace_candLen (kind : TraceKind) (data : List Byte) : (s.trace kind data).candLen = s.candLen := rfl
@[simp] theorem State.trace_need (kind : TraceKind) (data : List Byte) : (s.trace kind data).need = s.need := rfl
@[simp] theorem State.trace_hit (kind : TraceKind) (data : List Byte) : (s.trace kind data).hit = s.hit := rfl
@[simp] theorem State.trace_out (kind : TraceKind) (data : List Byte) : (s.trace kind data).out = s.out := rfl
@[simp] theorem State.trace_inputs (kind : TraceKind) (data : List Byte) : (s.trace kind data).inputs = s.inputs := rfl
@[simp] theorem State.trace_log (kind : TraceKind) (data : List Byte) : (s.trace kind data).log = s.log ++ traceEvents s.traceEn kind data := rfl
@[simp] theorem State.trace_inflight (kind : TraceKind) (data : List Byte) : (s.trace kind data).inflight = s.inflight := rfl
@[simp] theorem State.trace_scanMode (kind : TraceKind) (data : List Byte) : (s.trace kind data).scanMode = s.scanMode := rfl
@[simp] theorem State.trace_traceEn (kind : TraceKind) (data : List Byte) : (s.trace kind data).traceEn = s.traceEn := rfl

/-! ## `State.enterPoll` -/

@[simp] theorem State.enterPoll_st : s.enterPoll.st = .poll := rfl
@[simp] theorem State.enterPoll_chunk : s.enterPoll.chunk = s.chunk := rfl
@[simp] theorem State.enterPoll_clen : s.enterPoll.clen = s.clen := rfl
@[simp] theorem State.enterPoll_idx : s.enterPoll.idx = s.idx := rfl
@[simp] theorem State.enterPoll_cand : s.enterPoll.cand = s.cand := rfl
@[simp] theorem State.enterPoll_candLen : s.enterPoll.candLen = s.candLen := rfl
@[simp] theorem State.enterPoll_need : s.enterPoll.need = s.need := rfl
@[simp] theorem State.enterPoll_hit : s.enterPoll.hit = s.hit := rfl
@[simp] theorem State.enterPoll_out : s.enterPoll.out = .req (Count.of Config.pollMax) := rfl
@[simp] theorem State.enterPoll_inputs : s.enterPoll.inputs = s.inputs := rfl
@[simp] theorem State.enterPoll_log : s.enterPoll.log = s.log ++ [.readReq (Count.of Config.pollMax)] := rfl
@[simp] theorem State.enterPoll_inflight : s.enterPoll.inflight = s.inflight := rfl
@[simp] theorem State.enterPoll_scanMode : s.enterPoll.scanMode = s.scanMode := rfl
@[simp] theorem State.enterPoll_traceEn : s.enterPoll.traceEn = s.traceEn := rfl

/-! ## `State.abandon` -/

@[simp] theorem State.abandon_st : s.abandon.st = s.st := rfl
@[simp] theorem State.abandon_chunk : s.abandon.chunk = s.chunk := rfl
@[simp] theorem State.abandon_clen : s.abandon.clen = s.clen := rfl
@[simp] theorem State.abandon_idx : s.abandon.idx = s.idx := rfl
@[simp] theorem State.abandon_cand : s.abandon.cand = s.cand := rfl
@[simp] theorem State.abandon_candLen : s.abandon.candLen = s.candLen := rfl
@[simp] theorem State.abandon_need : s.abandon.need = s.need := rfl
@[simp] theorem State.abandon_hit : s.abandon.hit = s.hit := rfl
@[simp] theorem State.abandon_out : s.abandon.out = s.out := rfl
@[simp] theorem State.abandon_inputs : s.abandon.inputs = s.inputs := rfl
@[simp] theorem State.abandon_log : s.abandon.log = s.log := rfl
@[simp] theorem State.abandon_inflight : s.abandon.inflight = s.inflight ++
      (if s.out = .none then [] else [Config.resetInflight s.inflight.length]) := rfl
@[simp] theorem State.abandon_scanMode : s.abandon.scanMode = s.scanMode := rfl
@[simp] theorem State.abandon_traceEn : s.abandon.traceEn = s.traceEn := rfl

/-! ## `State.clear` -/

@[simp] theorem State.clear_st : s.clear.st = s.st := rfl
@[simp] theorem State.clear_chunk : s.clear.chunk = Buffer.empty := rfl
@[simp] theorem State.clear_clen : s.clear.clen = 0 := rfl
@[simp] theorem State.clear_idx : s.clear.idx = 0 := rfl
@[simp] theorem State.clear_cand : s.clear.cand = Buffer.empty := rfl
@[simp] theorem State.clear_candLen : s.clear.candLen = 0 := rfl
@[simp] theorem State.clear_need : s.clear.need = 0 := rfl
@[simp] theorem State.clear_hit : s.clear.hit = false := rfl
@[simp] theorem State.clear_out : s.clear.out = s.out := rfl
@[simp] theorem State.clear_inputs : s.clear.inputs = s.inputs := rfl
@[simp] theorem State.clear_log : s.clear.log = s.log ++ [.reset] := rfl
@[simp] theorem State.clear_inflight : s.clear.inflight = s.inflight := rfl
@[simp] theorem State.clear_scanMode : s.clear.scanMode = s.scanMode := rfl
@[simp] theorem State.clear_traceEn : s.clear.traceEn = s.traceEn := rfl

/-! ## `State.requestPad` -/

@[simp] theorem State.requestPad_st :
    s.requestPad.st = if 0 < s.need.toNat then .pad else .cand := by
  unfold State.requestPad; split <;> rfl
@[simp] theorem State.requestPad_chunk : s.requestPad.chunk = s.chunk := by
  unfold State.requestPad; split <;> rfl
@[simp] theorem State.requestPad_clen : s.requestPad.clen = s.clen := by
  unfold State.requestPad; split <;> rfl
@[simp] theorem State.requestPad_idx : s.requestPad.idx = s.idx := by
  unfold State.requestPad; split <;> rfl
@[simp] theorem State.requestPad_cand : s.requestPad.cand = s.cand := by
  unfold State.requestPad; split <;> rfl
@[simp] theorem State.requestPad_candLen : s.requestPad.candLen = s.candLen := by
  unfold State.requestPad; split <;> rfl
@[simp] theorem State.requestPad_need : s.requestPad.need = s.need := by
  unfold State.requestPad; split <;> rfl
@[simp] theorem State.requestPad_hit : s.requestPad.hit = s.hit := by
  unfold State.requestPad; split <;> rfl
@[simp] theorem State.requestPad_out :
    s.requestPad.out = if 0 < s.need.toNat then .req s.need else s.out := by
  unfold State.requestPad; split <;> rfl
@[simp] theorem State.requestPad_inputs : s.requestPad.inputs = s.inputs := by
  unfold State.requestPad; split <;> rfl
@[simp] theorem State.requestPad_log :
    s.requestPad.log = s.log ++ (if 0 < s.need.toNat then [.readReq s.need] else []) := by
  unfold State.requestPad; split <;> simp
@[simp] theorem State.requestPad_inflight : s.requestPad.inflight = s.inflight := by
  unfold State.requestPad; split <;> rfl
@[simp] theorem State.requestPad_scanMode : s.requestPad.scanMode = s.scanMode := by
  unfold State.requestPad; split <;> rfl
@[simp] theorem State.requestPad_traceEn : s.requestPad.traceEn = s.traceEn := by
  unfold State.requestPad; split <;> rfl

end Sys2Proof.Machine
end

