-- ==== Sys2Proof/Laws/Exec.lean ====
section
/-! SUPPORT. Inversion: what each meaning has done when it answers a next state, and what a response's word is. -/

namespace Sys2Proof.Machine

variable {s t : State}

theorem onRow_eq_next {p : Bool} {k : Out} : onRow p k = .next t ↔ p = true ∧ k = .next t := by
  cases p <;> simp [onRow]

theorem withRead_eq_next {α : Type} {r : Except Fault α} {k : α → Out} :
    withRead r k = .next t ↔ ∃ a, r = .ok a ∧ k a = .next t := by
  cases r <;> simp [withRead]

theorem onRow_ne_fault {p : Bool} {k : Out} {f : Fault} :
    onRow p k = .fault f ↔ p = true ∧ k = .fault f := by
  cases p <;> simp [onRow]

theorem withRead_eq_fault {α : Type} {r : Except Fault α} {k : α → Out} {f : Fault} :
    withRead r k = .fault f ↔ r = .error f ∨ ∃ a, r = .ok a ∧ k a = .fault f := by
  cases r <;> simp [withRead]

theorem execPollEmpty_next (h : execPollEmpty s = .next t) :
    s.st = .poll ∧ s.out = .req 11#4 ∧ t = (s.tick.respond []).enterPoll := by
  simp only [execPollEmpty, onRow_eq_next, State.polling, Bool.and_eq_true, decide_eq_true_eq,
    Host.Outcome.next.injEq] at h
  exact ⟨h.1.1, h.1.2, h.2.symm⟩

theorem execPollCapture_next {data : List Byte} (h : execPollCapture data s = .next t) :
    s.st = .poll ∧ s.out = .req 11#4 ∧ 1 ≤ data.length ∧ data.length ≤ 11 ∧
      t = { s.tick.respond data with
        chunk := s.chunk.write 0 data, clen := Count.of data.length, st := .fast } := by
  simp only [execPollCapture, onRow_eq_next, State.polling, Bool.and_eq_true, decide_eq_true_eq,
    Host.Outcome.next.injEq] at h
  exact ⟨h.1.1.1.1, h.1.1.1.2, h.1.1.2, h.1.2, h.2.symm⟩

theorem execFastAccept_next (h : execFastAccept s = .next t) :
    s.st = .fast ∧ ∃ w, s.chunk.seq s.clen = .ok w ∧ frameOK w = true ∧
      t = (s.tick.sinkSend (payload w)).enterPoll := by
  simp only [execFastAccept, onRow_eq_next, withRead_eq_next, decide_eq_true_eq,
    Host.Outcome.next.injEq] at h
  obtain ⟨hs, w, hw, hf, rfl⟩ := h
  exact ⟨hs, w, hw, hf, rfl⟩

theorem execFastReject_next (h : execFastReject s = .next t) :
    s.st = .fast ∧ ∃ w, s.chunk.seq s.clen = .ok w ∧ frameOK w = false ∧
      t = { s.tick.trace .raw w with hit := false, idx := 0, st := .scan } := by
  simp only [execFastReject, onRow_eq_next, withRead_eq_next, decide_eq_true_eq,
    Host.Outcome.next.injEq, Bool.not_eq_true'] at h
  obtain ⟨hs, w, hw, hf, rfl⟩ := h
  exact ⟨hs, w, hw, hf, rfl⟩

theorem execScanEnd_next (h : execScanEnd s = .next t) :
    s.st = .scan ∧ s.idx = s.clen ∧ t = s.tick.enterPoll := by
  simp only [execScanEnd, onRow_eq_next, State.scanDone, Bool.and_eq_true, decide_eq_true_eq,
    Host.Outcome.next.injEq] at h
  exact ⟨h.1.1, h.1.2, h.2.symm⟩

theorem execScanSkip_next (h : execScanSkip s = .next t) :
    s.st = .scan ∧ s.idx ≠ s.clen ∧ ∃ b, s.chunk.read s.clen s.idx.toNat = .ok b ∧ b ≠ 0x02 ∧
      t = { s.tick with idx := s.idx + 1 } := by
  simp only [execScanSkip, onRow_eq_next, withRead_eq_next, State.scanDone, Bool.and_eq_true,
    decide_eq_true_eq, Host.Outcome.next.injEq, Bool.not_eq_true', decide_eq_false_iff_not, isStx,
    beq_eq_false_iff_ne] at h
  obtain ⟨⟨hs, hi⟩, b, hb, hx, rfl⟩ := h
  exact ⟨hs, hi, b, hb, hx, rfl⟩

/-- The state SCAN_HIT leaves, a candidate `w` formed. -/
def State.hitState (s : State) (w : List Byte) : State :=
  State.requestPad { s.tick with
    cand := s.cand.write 0 w
    candLen := s.clen - s.idx
    need := padCount s.clen s.idx }

theorem execScanHit_next (h : execScanHit s = .next t) :
    s.st = .scan ∧ s.idx ≠ s.clen ∧ s.chunk.read s.clen s.idx.toNat = .ok 0x02 ∧
      ∃ w, s.chunk.slice s.clen s.idx.toNat (s.clen - s.idx).toNat = .ok w ∧ t = s.hitState w := by
  simp only [execScanHit, onRow_eq_next, withRead_eq_next, State.scanDone, Bool.and_eq_true,
    decide_eq_true_eq, Host.Outcome.next.injEq, Bool.not_eq_true', decide_eq_false_iff_not, isStx,
    beq_iff_eq] at h
  obtain ⟨⟨hs, hi⟩, b, hb, rfl, w, hw, rfl⟩ := h
  exact ⟨hs, hi, hb, w, hw, rfl⟩

theorem execPadFill_next {data : List Byte} (h : execPadFill data s = .next t) :
    s.st = .pad ∧ s.out = .req s.need ∧ data.length ≤ s.need.toNat ∧
      t = { s.tick.respond data with
        cand := s.cand.write s.candLen.toNat data
        candLen := s.candLen + Count.of data.length
        st := .cand } := by
  simp only [execPadFill, onRow_eq_next, State.padding, Bool.and_eq_true, decide_eq_true_eq,
    Host.Outcome.next.injEq] at h
  exact ⟨h.1.1.1, h.1.1.2, h.1.2, h.2.symm⟩

/-- The state after CAND_ACCEPT's send, before the iteration ends or goes on. -/
def State.sentState (s : State) (w : List Byte) : State :=
  { (s.tick.trace .cand w).sinkSend (payload w) with hit := true }

theorem execCandAccept_next (h : execCandAccept s = .next t) :
    s.st = .cand ∧ ∃ w, s.cand.seq s.candLen = .ok w ∧ frameOK w = true ∧
      (s.scanMode = .first ∧ t = (s.sentState w).enterPoll ∨
        s.scanMode = .all ∧ t = { s.sentState w with idx := s.idx + 1, st := .scan }) := by
  simp only [execCandAccept, onRow_eq_next, withRead_eq_next, decide_eq_true_eq] at h
  obtain ⟨hs, w, hw, hf, ht⟩ := h
  have hx : (s.sentState w).stopsAtHit = decide (s.scanMode = .first) := by
    simp [State.stopsAtHit, State.sentState]
  change (if (s.sentState w).stopsAtHit = true then _ else _) = _ at ht
  refine ⟨hs, w, hw, hf, ?_⟩
  rw [hx] at ht
  cases hm : s.scanMode
  · rw [hm, if_neg (by decide)] at ht
    exact .inr ⟨rfl, (Host.Outcome.next.inj ht).symm⟩
  · rw [hm, if_pos (by decide)] at ht
    exact .inl ⟨rfl, (Host.Outcome.next.inj ht).symm⟩

theorem execCandReject_next (h : execCandReject s = .next t) :
    s.st = .cand ∧ ∃ w, s.cand.seq s.candLen = .ok w ∧ frameOK w = false ∧
      t = { s.tick.trace .cand w with idx := s.idx + 1, st := .scan } := by
  simp only [execCandReject, onRow_eq_next, withRead_eq_next, decide_eq_true_eq,
    Host.Outcome.next.injEq, Bool.not_eq_true'] at h
  obtain ⟨hs, w, hw, hf, rfl⟩ := h
  exact ⟨hs, w, hw, hf, rfl⟩

theorem execReset_next (h : execReset s = .next t) : t = s.tick.abandon.clear.enterPoll := by
  simp only [execReset, Host.Outcome.next.injEq] at h
  exact h.symm

/-- What a response's RESP word decodes to in POLL. -/
theorem decode_poll {data : List Byte} (h : data.length ≤ 11) :
    decode ⟨.at .poll, encodeResp data⟩ = .ok (if data = [] then .pollEmpty else .pollCapture data) := by
  have hn : (BitVec.ofNat 8 data.length).toNat = data.length := by
    rw [BitVec.toNat_ofNat]; omega
  have hr : decodeResp Config.pollMax (encodeResp data) = .ok data := by
    simp only [encodeResp, decodeResp, hn]
    rw [if_neg (by omega), if_neg (by simp), if_neg (by simp only [Config.pollMax]; omega)]
  cases data <;> simp [decode, decodePoll, hr]

/-- What a response's RESP word decodes to in PAD. -/
theorem decode_pad {data : List Byte} (h : data.length ≤ 10) :
    decode ⟨.at .pad, encodeResp data⟩ = .ok (.padFill data) := by
  have hn : (BitVec.ofNat 8 data.length).toNat = data.length := by
    rw [BitVec.toNat_ofNat]; omega
  have hr : decodeResp Config.padMax (encodeResp data) = .ok data := by
    simp only [encodeResp, decodeResp, hn]
    rw [if_neg (by omega), if_neg (by simp), if_neg (by simp only [Config.padMax]; omega)]
  simp [decode, decodePad, hr]

/-- A decoded RESP word is the word of its data. -/
theorem decodeResp_eq_ok {limit : Nat} {bytes data : List Byte} (h : decodeResp limit bytes = .ok data) :
    bytes = encodeResp data ∧ data.length ≤ limit := by
  cases bytes with
  | nil => simp [decodeResp] at h
  | cons k ds =>
    simp only [decodeResp] at h
    split_ifs at h with h1 h2 h3
    simp only [Except.ok.injEq] at h
    subst h
    push Not at h2
    refine ⟨?_, by omega⟩
    rw [encodeResp, ← h2, BitVec.ofNat_toNat, BitVec.setWidth_eq]

end Sys2Proof.Machine
end

