-- ==== Sys2Proof/Laws/Step.lean ====
section
/-! SUPPORT. Said once: everything a step can do when it answers a next state, one named case an operation. -/

namespace Sys2Proof.Machine

/-- What a step that answers a next state has done: the operation's condition and the state it leaves. -/
inductive StepEffect (s : State) : State → Prop
  | reset (hr : s.input.rst = true) : StepEffect s s.tick.abandon.clear.enterPoll
  | wait (hr : s.input.rst = false) (hd : s.input.resp = none) (hs : s.st = .poll ∨ s.st = .pad) :
    StepEffect s s.tick
  | pollEmpty (hr : s.input.rst = false) (hd : s.input.resp = some []) (hs : s.st = .poll)
    (ho : s.out = .req 11#4) : StepEffect s (s.tick.respond []).enterPoll
  | pollCapture (hr : s.input.rst = false) (data : List Byte) (hd : s.input.resp = some data)
    (hs : s.st = .poll) (ho : s.out = .req 11#4) (h1 : 1 ≤ data.length) (h2 : data.length ≤ 11) :
    StepEffect s { s.tick.respond data with
      chunk := s.chunk.write 0 data, clen := Count.of data.length, st := .fast }
  | padFill (hr : s.input.rst = false) (data : List Byte) (hd : s.input.resp = some data)
    (hs : s.st = .pad) (ho : s.out = .req s.need) (hn : data.length ≤ s.need.toNat) :
    StepEffect s { s.tick.respond data with
      cand := s.cand.write s.candLen.toNat data
      candLen := s.candLen + Count.of data.length
      st := .cand }
  | fastAccept (hr : s.input.rst = false) (hd : s.input.resp = none) (hs : s.st = .fast) (w : List Byte)
    (hw : s.chunk.seq s.clen = .ok w) (hf : frameOK w = true) :
    StepEffect s (s.tick.sinkSend (payload w)).enterPoll
  | fastReject (hr : s.input.rst = false) (hd : s.input.resp = none) (hs : s.st = .fast) (w : List Byte)
    (hw : s.chunk.seq s.clen = .ok w) (hf : frameOK w = false) :
    StepEffect s { s.tick.trace .raw w with hit := false, idx := 0, st := .scan }
  | scanEnd (hr : s.input.rst = false) (hd : s.input.resp = none) (hs : s.st = .scan)
    (hi : s.idx = s.clen) : StepEffect s s.tick.enterPoll
  | scanSkip (hr : s.input.rst = false) (hd : s.input.resp = none) (hs : s.st = .scan)
    (hi : s.idx ≠ s.clen) (b : Byte) (hb : s.chunk.read s.clen s.idx.toNat = .ok b) (hx : b ≠ 0x02) :
    StepEffect s { s.tick with idx := s.idx + 1 }
  | scanHit (hr : s.input.rst = false) (hd : s.input.resp = none) (hs : s.st = .scan)
    (hi : s.idx ≠ s.clen) (hb : s.chunk.read s.clen s.idx.toNat = .ok 0x02) (w : List Byte)
    (hw : s.chunk.slice s.clen s.idx.toNat (s.clen - s.idx).toNat = .ok w) :
    StepEffect s (s.hitState w)
  | candAcceptFirst (hr : s.input.rst = false) (hd : s.input.resp = none) (hs : s.st = .cand)
    (w : List Byte) (hw : s.cand.seq s.candLen = .ok w) (hf : frameOK w = true)
    (hm : s.scanMode = .first) : StepEffect s (s.sentState w).enterPoll
  | candAcceptAll (hr : s.input.rst = false) (hd : s.input.resp = none) (hs : s.st = .cand)
    (w : List Byte) (hw : s.cand.seq s.candLen = .ok w) (hf : frameOK w = true)
    (hm : s.scanMode = .all) : StepEffect s { s.sentState w with idx := s.idx + 1, st := .scan }
  | candReject (hr : s.input.rst = false) (hd : s.input.resp = none) (hs : s.st = .cand) (w : List Byte)
    (hw : s.cand.seq s.candLen = .ok w) (hf : frameOK w = false) :
    StepEffect s { s.tick.trace .cand w with idx := s.idx + 1, st := .scan }

variable {s t : State}

/-- What a step may have done where a response was taken. -/
theorem step_response {data : List Byte} (hr : s.input.rst = false) (hd : s.input.resp = some data)
    (h : step s = .next t) :
    (data = [] ∧ execPollEmpty s = .next t) ∨ execPollCapture data s = .next t ∨
      execPadFill data s = .next t := by
  simp only [step, see, hr, hd, Bool.false_eq_true, if_false, seeResponse] at h
  cases ho : s.out
  case none => simp [ho] at h
  case req n =>
    simp only [ho] at h
    split_ifs at h with hn
    cases hs : s.st <;> simp only [hs] at h <;> try contradiction
    · cases hc : decodePoll (encodeResp data) with
      | error e => simp [decode, hc] at h
      | ok i =>
        simp only [decode, hc] at h
        simp only [decodePoll] at hc
        split at hc
        · next hx =>
          cases hc
          exact .inl ⟨(List.cons.inj (decodeResp_eq_ok hx).1).2, h⟩
        · next b ds hx =>
          cases hc
          obtain rfl := (List.cons.inj (decodeResp_eq_ok hx).1).2
          exact .inr (.inl h)
        · simp at hc
    · cases hc : decodePad (encodeResp data) with
      | error e => simp [decode, hc] at h
      | ok i =>
        simp only [decode, hc] at h
        simp only [decodePad] at hc
        split at hc
        · next ds hx =>
          cases hc
          obtain rfl := (List.cons.inj (decodeResp_eq_ok hx).1).2
          exact .inr (.inr h)
        · simp at hc

/-- What a step may have done in FAST or CAND, where it examines a buffer as F11. -/
theorem step_f11 {c : Ctrl} {accept reject : Instr} {r : Except Fault (List Byte)}
    (hc : ∀ w, decode ⟨.at c, w⟩ = decodeF11 accept reject w)
    (h : (match seenRead c r with
      | .word w =>
        match decode w with
        | .ok i => exec i s
        | .error _ => .refused .rowNotSelected
      | .wait => .next s.tick
      | .noMove r => .refused r
      | .fault f => .fault f) = Host.Outcome.next t) :
    exec accept s = .next t ∨ exec reject s = .next t := by
  cases r with
  | error f => simp [seenRead] at h
  | ok w =>
    simp only [seenRead, hc, decodeF11] at h
    split at h
    · next i hi =>
      split_ifs at hi <;> cases hi
      · exact .inl h
      · exact .inr h
    · simp at h

/-- What a step may have done in SCAN. -/
theorem step_scan (hr : s.input.rst = false) (hd : s.input.resp = none) (hs : s.st = .scan)
    (h : step s = .next t) :
    execScanEnd s = .next t ∨ execScanHit s = .next t ∨ execScanSkip s = .next t := by
  simp only [step, see, hr, hd, Bool.false_eq_true, if_false, seeRegisters, hs] at h
  cases hx : s.scanDone with
  | true =>
    simp only [hx, if_true, decode, decodeScan, exec] at h
    exact .inl h
  | false =>
    simp only [hx, Bool.false_eq_true, if_false] at h
    cases hq : s.chunk.slice s.clen s.idx.toNat 1 with
    | error f => simp [seenRead, hq] at h
    | ok w =>
      simp only [seenRead, hq, decode] at h
      split at h
      · next i hi =>
        simp only [decodeScan] at hi
        split at hi
        · cases hi; exact .inl h
        · split_ifs at hi <;> cases hi
          · exact .inr (.inl h)
          · exact .inr (.inr h)
        · simp at hi
      · simp at h

/-- Every step that answers a next state is one of the named effects. -/
theorem step_effect (h : step s = .next t) : StepEffect s t := by
  cases hr : s.input.rst
  case true =>
    simp only [step, see, hr, if_true] at h
    obtain rfl := execReset_next (s := s) (t := t) (by simpa [decode, decodeRst, exec] using h)
    exact .reset hr
  case false =>
    cases hd : s.input.resp
    case some data =>
      rcases step_response hr hd h with ⟨rfl, h⟩ | h | h
      · obtain ⟨hs, ho, rfl⟩ := execPollEmpty_next h
        exact .pollEmpty hr hd hs ho
      · obtain ⟨hs, ho, h1, h2, rfl⟩ := execPollCapture_next h
        exact .pollCapture hr data hd hs ho h1 h2
      · obtain ⟨hs, ho, hn, rfl⟩ := execPadFill_next h
        exact .padFill hr data hd hs ho hn
    case none =>
      cases hs : s.st
      case poll =>
        simp only [step, see, hr, hd, Bool.false_eq_true, if_false, seeRegisters, hs] at h
        obtain rfl := Host.Outcome.next.inj h
        exact .wait hr hd (.inl hs)
      case pad =>
        simp only [step, see, hr, hd, Bool.false_eq_true, if_false, seeRegisters, hs] at h
        obtain rfl := Host.Outcome.next.inj h
        exact .wait hr hd (.inr hs)
      case fast =>
        simp only [step, see, hr, hd, Bool.false_eq_true, if_false, seeRegisters, hs] at h
        rcases step_f11 (accept := .fastAccept) (reject := .fastReject) (fun _ => rfl) h with h | h
        · obtain ⟨-, w, hw, hf, rfl⟩ := execFastAccept_next h
          exact .fastAccept hr hd hs w hw hf
        · obtain ⟨-, w, hw, hf, rfl⟩ := execFastReject_next h
          exact .fastReject hr hd hs w hw hf
      case scan =>
        rcases step_scan hr hd hs h with h | h | h
        · obtain ⟨-, hi, rfl⟩ := execScanEnd_next h
          exact .scanEnd hr hd hs hi
        · obtain ⟨-, hi, hb, w, hw, rfl⟩ := execScanHit_next h
          exact .scanHit hr hd hs hi hb w hw
        · obtain ⟨-, hi, b, hb, hx, rfl⟩ := execScanSkip_next h
          exact .scanSkip hr hd hs hi b hb hx
      case cand =>
        simp only [step, see, hr, hd, Bool.false_eq_true, if_false, seeRegisters, hs] at h
        rcases step_f11 (accept := .candAccept) (reject := .candReject) (fun _ => rfl) h with h | h
        · obtain ⟨-, w, hw, hf, ⟨hm, rfl⟩ | ⟨hm, rfl⟩⟩ := execCandAccept_next h
          · exact .candAcceptFirst hr hd hs w hw hf hm
          · exact .candAcceptAll hr hd hs w hw hf hm
        · obtain ⟨-, w, hw, hf, rfl⟩ := execCandReject_next h
          exact .candReject hr hd hs w hw hf

end Sys2Proof.Machine
end

