-- ==== Sys2Proof/Laws/Observe.lean ====
section
/-! SUPPORT. How the observations of a log (R35, R55, R131, R184) grow with its events, and the arithmetic of the
counters (R126). -/

namespace Sys2Proof.Machine

variable (l m : List Event) (n : Count) (r d : List Byte) (k : TraceKind)

@[simp] theorem observe_append : observe (l ++ m) = observe l ++ observe m := by simp [observe]
@[simp] theorem observe_nil : observe [] = [] := rfl
@[simp] theorem observe_readReq : observe (.readReq n :: l) = .readReq n :: observe l := by
  simp [observe, Event.isTrace]
@[simp] theorem observe_readResp : observe (.readResp d :: l) = .readResp d :: observe l := by
  simp [observe, Event.isTrace]
@[simp] theorem observe_report : observe (.report r :: l) = .report r :: observe l := by
  simp [observe, Event.isTrace]
@[simp] theorem observe_reset : observe (.reset :: l) = .reset :: observe l := by
  simp [observe, Event.isTrace]
@[simp] theorem observe_trace : observe (.trace k d :: l) = observe l := by simp [observe, Event.isTrace]

@[simp] theorem reports_append : reports (l ++ m) = reports l ++ reports m := by simp [reports]
@[simp] theorem reports_nil : reports [] = [] := rfl
@[simp] theorem reports_readReq : reports (.readReq n :: l) = reports l := rfl
@[simp] theorem reports_readResp : reports (.readResp d :: l) = reports l := rfl
@[simp] theorem reports_report : reports (.report r :: l) = r :: reports l := rfl
@[simp] theorem reports_reset : reports (.reset :: l) = reports l := rfl
@[simp] theorem reports_trace : reports (.trace k d :: l) = reports l := rfl

@[simp] theorem inputStream_readReq : inputStream (l ++ [.readReq n]) = inputStream l := by
  simp [inputStream, streamStep]
@[simp] theorem inputStream_readResp : inputStream (l ++ [.readResp d]) = inputStream l ++ d := by
  simp [inputStream, streamStep]
@[simp] theorem inputStream_report : inputStream (l ++ [.report r]) = inputStream l := by
  simp [inputStream, streamStep]
@[simp] theorem inputStream_reset : inputStream (l ++ [.reset]) = [] := by simp [inputStream, streamStep]
@[simp] theorem inputStream_trace : inputStream (l ++ [.trace k d]) = inputStream l := by
  simp [inputStream, streamStep]

@[simp] theorem lastResponse_readReq : lastResponse (l ++ [.readReq n]) = lastResponse l := by
  simp [lastResponse, responseStep]
@[simp] theorem lastResponse_readResp : lastResponse (l ++ [.readResp d]) = some d := by
  simp [lastResponse, responseStep]
@[simp] theorem lastResponse_report : lastResponse (l ++ [.report r]) = lastResponse l := by
  simp [lastResponse, responseStep]
@[simp] theorem lastResponse_reset : lastResponse (l ++ [.reset]) = lastResponse l := by
  simp [lastResponse, responseStep]
@[simp] theorem lastResponse_trace : lastResponse (l ++ [.trace k d]) = lastResponse l := by
  simp [lastResponse, responseStep]

/-- R101: a poll request starts an iteration. -/
@[simp] theorem iteration_poll : iteration (l ++ [.readReq 11#4]) = [] := by
  simp [iteration, iterationStep]

/-- Any other event belongs to the iteration in progress. -/
theorem iteration_append (e : Event) (h : e ≠ .readReq 11#4) : iteration (l ++ [e]) = iteration l ++ [e] := by
  simp only [iteration, List.foldl_append, List.foldl_cons, List.foldl_nil, iterationStep]
  rw [if_neg h]

@[simp] theorem iteration_readResp : iteration (l ++ [.readResp d]) = iteration l ++ [.readResp d] :=
  iteration_append _ _ (by simp)
@[simp] theorem iteration_report : iteration (l ++ [.report r]) = iteration l ++ [.report r] :=
  iteration_append _ _ (by simp)
@[simp] theorem iteration_trace : iteration (l ++ [.trace k d]) = iteration l ++ [.trace k d] :=
  iteration_append _ _ (by simp)

/-! R156: the trace events of a step are in no observation. -/

@[simp] theorem observe_traceEvents (b : Bool) : observe (traceEvents b k d) = [] := by cases b <;> rfl
@[simp] theorem reports_traceEvents (b : Bool) : reports (traceEvents b k d) = [] := by cases b <;> rfl
@[simp] theorem inputStream_traceEvents (b : Bool) :
    inputStream (l ++ traceEvents b k d) = inputStream l := by
  cases b <;> simp [traceEvents]
@[simp] theorem lastResponse_traceEvents (b : Bool) :
    lastResponse (l ++ traceEvents b k d) = lastResponse l := by
  cases b <;> simp [traceEvents]
@[simp] theorem portStep_traceEvents (b : Bool) (p : Port) :
    (traceEvents b k d).foldl portStep (some p) = some p := by
  cases b <;> cases p <;> rfl
@[simp] theorem iteration_traceEvents (b : Bool) :
    iteration (l ++ traceEvents b k d) = iteration l ++ traceEvents b k d := by
  cases b <;> simp [traceEvents]
@[simp] theorem filter_isReq_traceEvents (b : Bool) : (traceEvents b k d).filter Event.isReq = [] := by
  cases b <;> rfl
@[simp] theorem consumed_traceEvents (b : Bool) : ((traceEvents b k d).map Event.consumed).sum = 0 := by
  cases b <;> rfl

/-- A frame's payload is a report (R57, R75). -/
theorem payload_length {w : List Byte} (h : frameOK w = true) : (payload w).length = Config.reportLen := by
  have hw : w.length = 11 := by
    simp only [frameOK, Bool.and_eq_true, decide_eq_true_eq, and_assoc] at h
    exact h.1
  simp [payload, hw, Config.reportLen, Config.reportOff]

/-- R126: `CLEN - IDX` does not wrap. -/
theorem toNat_sub_count {clen idx : Count} (h : idx.toNat ≤ clen.toNat) :
    (clen - idx).toNat = clen.toNat - idx.toNat := by
  have := clen.isLt; have := idx.isLt
  rw [BitVec.toNat_sub]; omega

/-- R126: `IDX + 1` does not wrap below 11. -/
theorem toNat_succ_count {idx : Count} (h : idx.toNat < 11) : (idx + 1).toNat = idx.toNat + 1 := by
  rw [BitVec.toNat_add]
  have : (1 : Count).toNat = 1 := rfl
  omega

/-- R84, R126: the pad count does not wrap. -/
theorem toNat_padCount {clen idx : Count} (h : idx.toNat ≤ clen.toNat) (hc : clen.toNat ≤ 11) :
    (padCount clen idx).toNat = 11 - (clen.toNat - idx.toNat) := by
  have hf : (Count.of Config.frameLen).toNat = 11 := rfl
  rw [padCount, BitVec.toNat_sub, toNat_sub_count h, hf]; omega

/-- R122: the candidate SCAN_HIT forms is the slice it copied. -/
theorem seq_of_hit (b c : Buffer) {clen idx : Count} {w : List Byte}
    (hi : idx.toNat ≤ clen.toNat) (hc : clen.toNat ≤ 11)
    (hw : b.slice clen idx.toNat (clen - idx).toNat = .ok w) :
    (c.write 0 w).seq (clen - idx) = .ok w := by
  have hl := ((Buffer.slice_eq_ok ..).1 hw).1
  have hs := toNat_sub_count hi
  have he : Count.of w.length = clen - idx := by rw [hl]; exact BitVec.ofNat_toNat _ _ |>.trans (by simp)
  rw [← he]
  exact Buffer.seq_write_zero _ _ (by rw [hl, hs]; exact le_trans (Nat.sub_le _ _) hc)

/-- R122: the slice SCAN_HIT copies is the chunk from IDX on. -/
theorem drop_of_hit (b : Buffer) {clen idx : Count} {v w : List Byte} (hi : idx.toNat ≤ clen.toNat)
    (hv : b.seq clen = .ok v) (hw : b.slice clen idx.toNat (clen - idx).toNat = .ok w) :
    w = v.drop idx.toNat := by
  rw [toNat_sub_count hi, Buffer.slice_of_seq _ _ _ _ hv] at hw
  exact (Except.ok.inj hw).symm

end Sys2Proof.Machine
end

