-- ==== Sys2Proof/Laws/PerInstr.lean ====
section
/-! SUPPORT. Facts about every operation as syntax, one lemma a constructor. -/

namespace Sys2Proof.Laws.WordLength

/-- The word of a well-formed operation has at most 12 bytes: a count and the 11 bytes of the longest response. -/
def Statement (i : Instr) : Prop := i.wf = true → (encode i).bytes.length ≤ 12

theorem pollEmpty : Statement .pollEmpty := fun _ => by decide

theorem pollCapture (data : List Byte) : Statement (.pollCapture data) := fun h => by
  simp only [Instr.wf, Bool.and_eq_true, decide_eq_true_eq] at h
  have h' : data.length ≤ 11 := h.2
  simp only [encode, encodeResp, List.length_cons]; omega

theorem fastAccept : Statement .fastAccept := fun _ => by decide

theorem fastReject : Statement .fastReject := fun _ => by decide

theorem scanEnd : Statement .scanEnd := fun _ => by decide

theorem scanHit : Statement .scanHit := fun _ => by decide

theorem scanSkip : Statement .scanSkip := fun _ => by decide

theorem padFill (data : List Byte) : Statement (.padFill data) := fun h => by
  simp only [Instr.wf, decide_eq_true_eq] at h
  have h' : data.length ≤ 10 := h
  simp only [encode, encodeResp, List.length_cons]; omega

theorem candAccept : Statement .candAccept := fun _ => by decide

theorem candReject : Statement .candReject := fun _ => by decide

theorem reset : Statement .reset := fun _ => by decide

end Sys2Proof.Laws.WordLength
end

