-- ==== Sys2Proof/Tests/Slice0.lean ====
section
/-! SUPPORT. The model's own tests, each of one step on a small state, with expected results from the spec (its rule or
worked example is named), and the witnesses that the hypotheses of the statements can be met. -/

namespace Sys2Proof.Machine.Tests

/-! ## Helpers -/

/-- A field of the next state, if there is one. -/
def after {α : Type} (o : Out) (f : State → α) : Option α :=
  match o with
  | .next t => some (f t)
  | .fault _ => none
  | .refused _ => none

/-- A field of the state a wait leaves or an operation leaves, and the log events it added. -/
def added (s : State) (o : Out) : Option (List Event) := after o fun t => t.log.drop s.log.length

/-- POLL after reset, the given input next. -/
def polled (i : Input) : State := { State.reset with inputs := [i] }

/-- FAST with the chunk held. -/
def fastWith (chunk : List Byte) : State :=
  { State.reset with
    st := .fast, out := .none, chunk := Buffer.empty.write 0 chunk, clen := Count.of chunk.length }

/-- SCAN at a position of the chunk. -/
def scanAt (chunk : List Byte) (i : Count) : State := { fastWith chunk with st := .scan, idx := i }

/-- PAD at a position of the chunk: the candidate there, its pad requested. -/
def padAt (chunk : List Byte) (i : Count) : State :=
  { scanAt chunk i with
    st := .pad
    cand := Buffer.empty.write 0 (chunk.drop i.toNat)
    candLen := Count.of (chunk.drop i.toNat).length
    need := Count.of (11 - (chunk.drop i.toNat).length)
    out := .req (Count.of (11 - (chunk.drop i.toNat).length)) }

/-- CAND with a candidate formed at a position of the chunk. -/
def candAt (chunk : List Byte) (i : Count) (cand : List Byte) : State :=
  { scanAt chunk i with
    st := .cand, cand := Buffer.empty.write 0 cand, candLen := Count.of cand.length }

/-- W1's frame. -/
def frameW1 : List Byte := [0x02, 0x08, 0x04, 0x00, 0x05, 0x00, 0x00, 0x00, 0x00, 0x00, 0x03]

/-- W2's chunk, STX at offset 2. -/
def chunkW2 : List Byte := [0xFF, 0xFF, 0x02, 0x08, 0x0B, 0x00, 0x00, 0x00, 0x00, 0x00, 0x03]

/-- W2a's candidate. -/
def candW2 : List Byte := [0x02, 0x08, 0x0B, 0x00, 0x00, 0x00, 0x00, 0x00, 0x03, 0x00, 0x03]

/-- Eleven bytes 0x02 (V15). -/
def allStx : List Byte := List.replicate 11 0x02

/-! ## R5: the constants are related as the spec says -/

theorem test_constants :
    Config.frameLen = Config.reportLen + 3 ∧ Config.etxOff = Config.frameLen - 1 ∧
      Config.lenMark.toNat = Config.reportLen ∧ Config.pollMax = Config.frameLen := by decide

/-! ## WellFormed: each check refuses an ill-formed term -/

theorem test_wf_refuses_capture_of_nothing : (Instr.pollCapture []).wf = false := by decide
theorem test_wf_refuses_capture_of_twelve : (Instr.pollCapture (List.replicate 12 0)).wf = false := by decide
theorem test_wf_refuses_pad_of_eleven : (Instr.padFill (List.replicate 11 0)).wf = false := by decide

/-! ## Decode: a word of every row, written out from R70 to R79 and opcode_table.json -/

theorem test_decode_pollEmpty : decode ⟨.at .poll, [0b00000000]⟩ = .ok .pollEmpty := by decide
theorem test_decode_pollCapture :
    decode ⟨.at .poll, [0b00000011, 0xFF, 0x02, 0x08]⟩ = .ok (.pollCapture [0xFF, 0x02, 0x08]) := by decide
theorem test_decode_fastAccept :
    decode ⟨.at .fast, [0b00000010, 0b00001000, 4, 0, 5, 0, 0, 0, 0, 0, 0b00000011]⟩ = .ok .fastAccept := by
  decide
theorem test_decode_fastReject :
    decode ⟨.at .fast, [0b00000010, 0b00000111, 4, 0, 0, 0, 0, 0, 0, 0, 0b00000011]⟩ = .ok .fastReject := by
  decide
theorem test_decode_scanEnd : decode ⟨.at .scan, []⟩ = .ok .scanEnd := by decide
theorem test_decode_scanHit : decode ⟨.at .scan, [0b00000010]⟩ = .ok .scanHit := by decide
theorem test_decode_scanSkip : decode ⟨.at .scan, [0b00001000]⟩ = .ok .scanSkip := by decide
theorem test_decode_padFill :
    decode ⟨.at .pad, [0b00000010, 0x00, 0x03]⟩ = .ok (.padFill [0x00, 0x03]) := by decide
theorem test_decode_candAccept : decode ⟨.at .cand, candW2⟩ = .ok .candAccept := by decide
theorem test_decode_candReject : decode ⟨.at .cand, [0x02, 0xFF, 0x02, 0x08, 0x00]⟩ = .ok .candReject := by
  decide
theorem test_decode_reset : decode ⟨.rst, [0b00000001]⟩ = .ok .reset := by decide
theorem test_decode_rejects :
    decode ⟨.rst, [0]⟩ = .error .resetNotAsserted ∧ decode ⟨.at .poll, []⟩ = .error .emptyWord ∧
      decode ⟨.at .poll, [2, 0]⟩ = .error .countMismatch ∧ decode ⟨.at .pad, [16]⟩ = .error .countTooWide := by
  decide

/-! ## The opcode table's words (assumption 7), and that the first step after reset runs them -/

theorem test_table_fastAccept : decodeTableWord 88 0x0208000000000000000003 = some .fastAccept := by decide
theorem test_table_scanHit : decodeTableWord 8 0x02 = some .scanHit := by decide
theorem test_table_reset : decodeTableWord 8 0x1 = some .reset := by decide
theorem test_table_pollEmpty : decodeTableWord 8 0x0 = some .pollEmpty := by decide
theorem test_fetch_fastAccept :
    added State.reset (step (State.reset.withFetchWord 88 0x0208112233445566778803)) =
      some [.report [0x11, 0x22, 0x33, 0x44, 0x55, 0x66, 0x77, 0x88], .readReq 11] := by decide
theorem test_fetch_scanHit :
    after (step (State.reset.withFetchWord 8 0x02)) (fun t => (t.st, t.need)) = some (.pad, 10) := by decide

/-! ## One step of each operation -/

/-- R102's example (V1). -/
theorem test_pollEmpty :
    added State.reset (step (polled ⟨false, some []⟩)) = some [.readResp [], .readReq 11] := by decide

/-- R103's example. -/
theorem test_pollCapture :
    after (step (polled ⟨false, some [0xFF, 0x02, 0x08]⟩))
      (fun t => (t.st, t.clen, t.chunk.seq t.clen, t.out)) =
      some (.fast, 3, .ok [0xFF, 0x02, 0x08], .none) := by decide

/-- W1. -/
theorem test_fastAccept :
    added State.reset (step (fastWith frameW1)) = some [.report [4, 0, 5, 0, 0, 0, 0, 0], .readReq 11] := by
  decide

/-- R105's example (W2). -/
theorem test_fastReject :
    after (step (fastWith chunkW2)) (fun t => (t.st, t.idx, t.hit)) = some (.scan, 0, false) := by decide

/-- R120's example. -/
theorem test_scanEnd : added State.reset (step (scanAt [0xFF, 0xFF] 2)) = some [.readReq 11] := by decide

/-- V54: the last position of a full chunk. -/
theorem test_scanSkip :
    after (step (scanAt chunkW2 10)) (fun t => (t.st, t.idx)) = some (.scan, 11) := by decide

/-- R122's example. -/
theorem test_scanHit :
    after (step (scanAt chunkW2 2)) (fun t => (t.st, t.out, t.need, t.cand.seq t.candLen)) =
      some (.pad, .req 2, 2, .ok [0x02, 0x08, 0x0B, 0x00, 0x00, 0x00, 0x00, 0x00, 0x03]) := by decide

/-- V50: no request for no bytes. -/
theorem test_scanHit_no_pad :
    after (step (scanAt allStx 0)) (fun t => (t.st, t.out, t.need)) = some (.cand, .none, 0) := by decide

/-- R123's example. -/
theorem test_padFill :
    after (step { padAt chunkW2 2 with inputs := [⟨false, some [0x00, 0x03]⟩] })
      (fun t => (t.st, t.candLen, t.cand.seq t.candLen)) = some (.cand, 11, .ok candW2) := by decide

/-- V13: an empty pad response. -/
theorem test_padFill_empty :
    after (step { padAt [0x02, 0x08, 0x04, 0x00] 0 with inputs := [⟨false, some []⟩] })
      (fun t => (t.st, t.candLen, t.out)) = some (.cand, 4, .none) := by decide

/-- R124's example, SCAN_MODE = ALL. -/
theorem test_candAccept_all :
    after (step (candAt chunkW2 2 candW2)) (fun t => (t.st, t.idx, t.hit, reports t.log)) =
      some (.scan, 3, true, [[0x0B, 0, 0, 0, 0, 0, 3, 0]]) := by decide

/-- V18's end: SCAN_MODE = FIRST. -/
theorem test_candAccept_first :
    after (step { candAt chunkW2 2 candW2 with scanMode := .first })
      (fun t => (t.st, t.idx, t.hit, t.out)) = some (.poll, 2, true, .req 11) := by decide

/-- R125's example. -/
theorem test_candReject :
    after (step (candAt [0x02, 0xFF, 0x02, 0x08, 0x00] 0 [0x02, 0xFF, 0x02, 0x08, 0x00]))
      (fun t => (t.st, t.idx, reports t.log)) = some (.scan, 1, []) := by decide

/-- R190's example (V41): reset while a pad read is outstanding. -/
theorem test_reset :
    after (step { padAt chunkW2 2 with inputs := [⟨true, none⟩] })
      (fun t => (t.st, t.out, t.clen, t.candLen, t.need)) = some (.poll, .req 11, 0, 0, 0) := by decide

/-- R176: reset takes precedence over a response that is present. -/
theorem test_reset_priority :
    added State.reset (step (polled ⟨true, some frameW1⟩)) = some [.reset, .readReq 11] := by decide

/-! ## Witnesses: states and operands that meet the hypotheses of each statement -/

theorem witness_PackedPatternIsFrameOK : frameW1.length = 11 := by decide
theorem witness_PackedReportView : (frameW1.drop 3).length = 8 := by decide
theorem witness_PayloadIsBytesTwoToNine : frameOK frameW1 = true := by decide

/-- R84's table at its corners: NEED = 0, 10 and 10. -/
theorem witness_PadCountFormula :
    ((0 : Count).toNat < (11 : Count).toNat ∧ (11 : Count).toNat ≤ 11 ∧ padCount 11 0 = 0) ∧
    ((10 : Count).toNat < (11 : Count).toNat ∧ padCount 11 10 = 10) ∧
    ((0 : Count).toNat < (1 : Count).toNat ∧ padCount 1 0 = 10) := by decide

theorem witness_DecodeOfEncode :
    (Instr.pollCapture frameW1).wf = true ∧ (Instr.pollCapture [0]).wf = true ∧
      (Instr.padFill (List.replicate 10 0)).wf = true ∧ (Instr.padFill []).wf = true := by decide

theorem witness_EncodeOfDecodedResponse :
    decode ⟨.at .poll, [1, 0xFF]⟩ = .ok (.pollCapture [0xFF]) ∧ decode ⟨.at .pad, [0]⟩ = .ok (.padFill []) := by
  decide

theorem witness_DecodedIsWellFormed :
    decode ⟨.at .poll, encodeResp frameW1⟩ = .ok (.pollCapture frameW1) := by decide

/-- The clauses of the operation map of words, at the lengths where they meet. -/
theorem witness_OperationMapOfWords :
    decode ⟨.at .poll, encodeResp (List.replicate 11 0)⟩ = .ok (.pollCapture (List.replicate 11 0)) ∧
    decode ⟨.at .poll, encodeResp (List.replicate 12 0)⟩ = .error .responseTooLong ∧
    decode ⟨.at .pad, encodeResp (List.replicate 10 0)⟩ = .ok (.padFill (List.replicate 10 0)) ∧
    decode ⟨.at .pad, encodeResp (List.replicate 11 0)⟩ = .error .responseTooLong ∧
    decode ⟨.at .fast, List.replicate 11 0⟩ = .ok .fastReject ∧
    decode ⟨.at .fast, List.replicate 12 0⟩ = .error .sequenceTooLong ∧
    decode ⟨.at .cand, List.replicate 12 0⟩ = .error .sequenceTooLong := by decide

theorem witness_PollEmptyResult : State.reset.st = .poll ∧ State.reset.out = .req 11#4 := by decide

/-- Both clauses, where they meet: 11 bytes and 12. -/
theorem witness_PollCaptureResult :
    State.reset.st = .poll ∧ State.reset.out = .req 11#4 ∧ 1 ≤ frameW1.length ∧ frameW1.length ≤ 11 ∧
      11 < (0x02 :: frameW1).length := by
  decide

theorem witness_FastAcceptResult :
    (fastWith frameW1).st = .fast ∧
      (fastWith frameW1).chunk.seq (fastWith frameW1).clen = .ok frameW1 ∧ frameOK frameW1 = true := by decide

theorem witness_FastRejectResult :
    (fastWith chunkW2).st = .fast ∧
      (fastWith chunkW2).chunk.seq (fastWith chunkW2).clen = .ok chunkW2 ∧ frameOK chunkW2 = false := by decide

theorem witness_ScanEndResult : (scanAt chunkW2 11).st = .scan ∧ (scanAt chunkW2 11).idx = (scanAt chunkW2 11).clen := by
  decide

theorem witness_ScanSkipResult :
    (scanAt chunkW2 10).st = .scan ∧ (scanAt chunkW2 10).idx ≠ (scanAt chunkW2 10).clen ∧
      (scanAt chunkW2 10).chunk.read 11 10 = .ok 0x03 ∧ (0x03 : Byte) ≠ 0x02 := by decide

/-- Both forms of SCAN_HIT: with a pad (IDX = 10) and without one (IDX = 0 of a full chunk). -/
theorem witness_ScanHitResult :
    ((scanAt allStx 10).st = .scan ∧ (scanAt allStx 10).chunk.seq 11 = .ok allStx ∧
      (10 : Count).toNat < (11 : Count).toNat ∧ (scanAt allStx 10).chunk.read 11 10 = .ok 0x02 ∧
      0 < (padCount 11 10).toNat) ∧
    ((scanAt allStx 0).st = .scan ∧ (scanAt allStx 0).chunk.seq 11 = .ok allStx ∧
      (scanAt allStx 0).chunk.read 11 0 = .ok 0x02 ∧ ¬ 0 < (padCount 11 0).toNat) := by decide

theorem witness_PadFillResult :
    (padAt chunkW2 2).st = .pad ∧ (padAt chunkW2 2).out = .req (padAt chunkW2 2).need ∧
      (padAt chunkW2 2).cand.seq (padAt chunkW2 2).candLen = .ok (chunkW2.drop 2) ∧
      (padAt chunkW2 2).need.toNat = 11 - (padAt chunkW2 2).candLen.toNat ∧
      ([0x00, 0x03] : List Byte).length ≤ (padAt chunkW2 2).need.toNat ∧
      (padAt chunkW2 2).need.toNat < ([0x00, 0x03, 0x02] : List Byte).length := by decide

/-- Both modes of CAND_ACCEPT. -/
theorem witness_CandAcceptResult :
    (candAt chunkW2 2 candW2).st = .cand ∧ (candAt chunkW2 2 candW2).cand.seq 11 = .ok candW2 ∧
      frameOK candW2 = true ∧ (candAt chunkW2 2 candW2).scanMode = .all ∧
      ({ candAt chunkW2 2 candW2 with scanMode := .first } : State).scanMode = .first := by decide

theorem witness_CandRejectResult :
    (candAt [0x02, 0xFF] 0 [0x02, 0xFF]).st = .cand ∧
      (candAt [0x02, 0xFF] 0 [0x02, 0xFF]).cand.seq 2 = .ok [0x02, 0xFF] ∧
      frameOK [0x02, 0xFF] = false := by decide

/-- Both clauses: no request outstanding, and one. -/
theorem witness_ResetDrawsAndEmpties :
    (fastWith frameW1).out = .none ∧ State.reset.out = .req 11#4 ∧
      (∃ t, exec .reset (fastWith frameW1) = .next t) ∧ (∃ t, exec .reset State.reset = .next t) :=
  ⟨rfl, rfl, ⟨_, rfl⟩, ⟨_, rfl⟩⟩

theorem witness_RowsApplyInTheirStateOnly :
    (fastWith frameW1).st ≠ .poll ∧ State.reset.st ≠ .fast ∧ State.reset.st ≠ .scan ∧ State.reset.st ≠ .pad ∧
      State.reset.st ≠ .cand := by decide

theorem witness_StepRunsDecodedOperation :
    see (fastWith frameW1) = .word ⟨.at .fast, frameW1⟩ ∧ decode ⟨.at .fast, frameW1⟩ = .ok .fastAccept := by
  decide

/-- A state and input for each row of the operation map. -/
theorem witness_OperationMapOfStep :
    (polled ⟨true, some []⟩).input.rst = true ∧
    ((polled ⟨false, some []⟩).input = ⟨false, some []⟩ ∧ (polled ⟨false, some frameW1⟩).input.resp = some frameW1) ∧
    ({ padAt [0x02] 0 with inputs := [⟨false, some [0x08]⟩] } : State).input.resp = some [0x08] ∧
    (fastWith frameW1).input = Input.idle ∧ (fastWith chunkW2).chunk.seq 11 = .ok chunkW2 ∧
    (scanAt chunkW2 11).input = Input.idle ∧ (scanAt chunkW2 2).chunk.read 11 2 = .ok 0x02 ∧
    (scanAt chunkW2 3).chunk.read 11 3 = .ok 0x08 ∧ (candAt chunkW2 2 candW2).input = Input.idle := by decide

theorem witness_StepWaitsForResponse :
    State.reset.input = Input.idle ∧ State.reset.st = .poll ∧ (padAt [0x02] 0).input = Input.idle ∧
      (padAt [0x02] 0).st = .pad := by decide

/-- Both clauses: an unsolicited response, and one a byte longer than its request. -/
theorem witness_ContractBreachHasNoMove :
    ({ fastWith frameW1 with inputs := [⟨false, some []⟩] } : State).input = ⟨false, some []⟩ ∧
      (fastWith frameW1).out = .none ∧
      (polled ⟨false, some (List.replicate 12 0)⟩).out = .req 11#4 ∧
      (11#4).toNat < (List.replicate 12 (0 : Byte)).length := by decide

theorem witness_EveryEntryIntoPollRequestsEleven :
    after (step (fastWith frameW1)) (fun t => t.st) = some .poll ∧ (fastWith frameW1).waits = false := by decide

theorem inv_fastWith : (fastWith frameW1).Inv := by
  show State.FastInv _
  decide

theorem inv_scanAt : (scanAt chunkW2 2).Inv := by
  show State.ScanInv _
  decide

theorem inv_padAt : (padAt chunkW2 2).Inv := by
  show State.PadInv _
  decide

theorem inv_candAt : (candAt chunkW2 2 candW2).Inv := by
  show State.CandInv _
  decide

theorem inv_reset : State.reset.Inv := by
  show State.PollInv _
  decide

theorem witness_NoStepRaisesTheModelFault : (scanAt chunkW2 2).Inv := inv_scanAt

theorem witness_ContractKeepingStepMoves :
    (padAt chunkW2 2).Inv ∧ ({ padAt chunkW2 2 with inputs := [⟨false, some [0, 3]⟩] } : State).inputOK = true :=
  ⟨inv_padAt, by decide⟩

theorem witness_RegistersWrittenOnlyByTheirOperations :
    ∃ t, exec .scanSkip (scanAt chunkW2 3) = .next t := ⟨_, rfl⟩

/-- Both clauses: a step with reset asserted and one without. -/
theorem witness_LogOnlyGrows :
    (∃ t, step (polled ⟨true, none⟩) = .next t) ∧ (∃ t, step (fastWith frameW1) = .next t) :=
  ⟨⟨_, rfl⟩, ⟨_, rfl⟩⟩

theorem witness_InputStreamIsTheResponses :
    (∃ t, step (polled ⟨true, none⟩) = .next t) ∧ (∃ t, step (polled ⟨false, some [0xFF]⟩) = .next t) :=
  ⟨⟨_, rfl⟩, ⟨_, rfl⟩⟩

/-- A step without a trace port, and steps of FAST and CAND with one. -/
theorem witness_TraceEventsAreTheAllowedOnes :
    (∃ t, step (fastWith chunkW2) = .next t) ∧ (fastWith chunkW2).traceEn = false ∧
    (∃ t, step { fastWith chunkW2 with traceEn := true } = .next t) ∧
    (fastWith chunkW2).chunk.seq 11 = .ok chunkW2 ∧
    (∃ t, step { candAt chunkW2 2 candW2 with traceEn := true } = .next t) ∧
    (candAt chunkW2 2 candW2).cand.seq 11 = .ok candW2 :=
  ⟨⟨_, rfl⟩, rfl, ⟨_, rfl⟩, by decide, ⟨_, rfl⟩, by decide⟩

/-- All four clauses. -/
theorem witness_ReportIffFrame :
    (∃ t, step (polled ⟨true, none⟩) = .next t) ∧ (∃ t, step (fastWith frameW1) = .next t) ∧ (fastWith frameW1).chunk.seq 11 = .ok frameW1 ∧
    (∃ t, step (candAt chunkW2 2 candW2) = .next t) ∧ (candAt chunkW2 2 candW2).cand.seq 11 = .ok candW2 ∧
    (∃ t, step (scanAt chunkW2 3) = .next t) ∧ (scanAt chunkW2 3).st = .scan :=
  ⟨⟨_, rfl⟩, ⟨_, rfl⟩, by decide, ⟨_, rfl⟩, by decide, ⟨_, rfl⟩, rfl⟩

/-- The clauses of IDX: the start of the slow path, a skip, a candidate's check. -/
theorem witness_IdxAdvancesByOne :
    after (step (fastWith chunkW2)) (fun t => (t.st, t.idx)) = some (.scan, 0) ∧
    (scanAt chunkW2 2).Inv ∧ (scanAt chunkW2 3).chunk.read 11 3 = .ok 0x08 ∧
    (candAt chunkW2 2 candW2).Inv ∧
    after (step (candAt chunkW2 2 candW2)) (fun t => (t.st, t.idx)) = some (.scan, 3) :=
  ⟨by decide, inv_scanAt, by decide, inv_candAt, by decide⟩

theorem witness_StepKeepsTheInvariants :
    (scanAt chunkW2 2).Inv ∧ ∃ t, step (scanAt chunkW2 2) = .next t := ⟨inv_scanAt, ⟨_, rfl⟩⟩

theorem witness_StepKeepsThePortConversation :
    State.reset.Inv ∧ State.reset.PortInv ∧ ∃ t, step (polled ⟨false, some [0xFF]⟩) = .next t :=
  ⟨inv_reset, by decide, ⟨_, rfl⟩⟩

/-- The chunk of W2 on the slow path. -/
theorem slow_scanAt : (scanAt chunkW2 2).SlowInv := by
  refine ⟨fun _ w hw => ?_, fun h => ?_⟩
  · have hc : (scanAt chunkW2 2).chunk.seq (scanAt chunkW2 2).clen = .ok chunkW2 := by decide
    rw [hc] at hw
    cases hw
    decide
  · rcases h with h | h <;> cases h

/-- PAD at W2's STX, the pad response of W2a to come. -/
def padThenRest : State := { padAt chunkW2 2 with inputs := [⟨false, some [0x00, 0x03]⟩] }

theorem slow_padThenRest : padThenRest.SlowInv := by
  have hc : padThenRest.chunk.seq padThenRest.clen = .ok chunkW2 := by decide
  have hd : padThenRest.cand.seq padThenRest.candLen = .ok (chunkW2.drop 2) := by decide
  refine ⟨fun _ w hw => ?_, fun _ w v hw hv => ?_⟩
  · rw [hc] at hw
    cases hw
    decide
  · rw [hc] at hw
    rw [hd] at hv
    cases hw
    cases hv
    decide

/-- In SCAN, and in PAD where the step goes to CAND with a padded candidate. -/
theorem witness_StepKeepsTheSlowPath :
    ((scanAt chunkW2 2).Inv ∧ (scanAt chunkW2 2).SlowInv ∧ ∃ t, step (scanAt chunkW2 2) = .next t) ∧
    padThenRest.Inv ∧ padThenRest.SlowInv ∧
      ∃ t, step padThenRest = .next t ∧ t.st = .cand ∧ t.clen.toNat - t.idx.toNat < 11 :=
  ⟨⟨inv_scanAt, slow_scanAt, ⟨_, rfl⟩⟩, inv_padAt, slow_padThenRest, ⟨_, rfl, by decide, by decide⟩⟩

/-- The step into CAND that StepKeepsTheSlowPath speaks of: a padded candidate, its tail the last response (W2a). -/
theorem test_padFill_tail :
    after (step padThenRest) (fun t => (t.st, lastResponse t.log)) = some (.cand, some (candW2.drop 9)) := by
  decide

/-- SCAN at position 2 of W2's chunk, the log of the iteration so far with it. -/
def scanLogged : State := { scanAt chunkW2 2 with log := [.reset, .readReq 11, .readResp chunkW2] }

theorem witness_StepKeepsTheIterationBounds :
    scanLogged.Inv ∧ scanLogged.SlowInv ∧ scanLogged.IterInv ∧ ∃ t, step scanLogged = .next t :=
  ⟨inv_scanAt, slow_scanAt, by show State.ScanIter _; decide, ⟨_, rfl⟩⟩

theorem witness_IterationBounds : scanLogged.Inv ∧ scanLogged.IterInv :=
  ⟨inv_scanAt, by show State.ScanIter _; decide⟩

theorem witness_IterationEndsInThirtyFiveSteps :
    (scanAt chunkW2 2).Inv ∧ (scanAt chunkW2 2).waits = false ∧ (scanAt chunkW2 2).input.rst = false ∧
      ∃ t, step (scanAt chunkW2 2) = .next t :=
  ⟨inv_scanAt, by decide, by decide, ⟨_, rfl⟩⟩

theorem witness_FullChunkCandidateNeverPasses :
    (candAt allStx 0 allStx).Inv ∧ (candAt allStx 0 allStx).SlowInv ∧ (candAt allStx 0 allStx).st = .cand ∧
      (candAt allStx 0 allStx).idx.toNat = 0 ∧ (candAt allStx 0 allStx).clen.toNat = 11 := by
  refine ⟨by show State.CandInv _; decide, ⟨fun _ w hw => ?_, fun _ w v hw hv => ?_⟩, by decide, by decide, by decide⟩
  · have hc : (candAt allStx 0 allStx).chunk.seq (candAt allStx 0 allStx).clen = .ok allStx := by decide
    rw [hc] at hw
    cases hw
    decide
  · have hc : (candAt allStx 0 allStx).chunk.seq (candAt allStx 0 allStx).clen = .ok allStx := by decide
    have hd : (candAt allStx 0 allStx).cand.seq (candAt allStx 0 allStx).candLen = .ok allStx := by decide
    rw [hc] at hw
    rw [hd] at hv
    cases hw
    cases hv
    decide

theorem witness_WholeFrameGivesOneReport :
    ∃ (s : State) (r : List Byte) (rest : List Input), s.st = .poll ∧ s.out = .req 11#4 ∧ r.length = 8 ∧
      s.inputs = ⟨false, some ([0x02, 0x08] ++ r ++ [0x03])⟩ :: Input.idle :: rest :=
  ⟨polled ⟨false, some ([0x02, 0x08] ++ List.replicate 8 0x02 ++ [0x03])⟩ |> fun s =>
    { s with inputs := s.inputs ++ [Input.idle] }, List.replicate 8 0x02, [], rfl, rfl, rfl, rfl⟩

/-- W3's chunk, no STX in 11 bytes. -/
def chunkW3 : List Byte := [0xFF, 0x00, 0x03, 0x08, 0xFF, 0x00, 0x03, 0x08, 0xFF, 0x00, 0x03]

/-- R132 at both ends of the chunk's length: 11 bytes and one. -/
theorem witness_ChunkWithoutStxGivesNothing :
    ((polled ⟨false, some chunkW3⟩).st = .poll ∧ (polled ⟨false, some chunkW3⟩).out = .req 11#4 ∧
      1 ≤ chunkW3.length ∧ chunkW3.length = 11 ∧ (0x02 : Byte) ∉ chunkW3 ∧
      (polled ⟨false, some chunkW3⟩).inputs = [⟨false, some chunkW3⟩]) ∧
    (polled ⟨false, some [0xFF]⟩).st = .poll ∧ (polled ⟨false, some [0xFF]⟩).out = .req 11#4 ∧
      ([0xFF] : List Byte).length = 1 ∧ (0x02 : Byte) ∉ ([0xFF] : List Byte) ∧
      (polled ⟨false, some [0xFF]⟩).inputs = [⟨false, some [0xFF]⟩] := by decide

/-- POLL after reset, with the inputs of R133: noise and the frame's first m bytes, the scan's steps, the pad response. -/
def resyncWith (noise f p : List Byte) (m : Nat) : State :=
  { State.reset with
    inputs := ⟨false, some (noise ++ f.take m)⟩ :: List.replicate (noise.length + 2) Input.idle ++
      [⟨false, some p⟩] }

/-- What R133 asks of the noise, the frame, m and the pad response. -/
abbrev ResyncPremises (s : State) (noise f p : List Byte) (m : Nat) : Prop :=
  s.st = .poll ∧ s.out = .req 11#4 ∧ (0x02 : Byte) ∉ noise ∧ frameOK f = true ∧ 1 ≤ m ∧ noise.length + m ≤ 11 ∧
    ¬(noise.length = 0 ∧ m = 11) ∧ p.length ≤ 11 - m ∧
    s.inputs = ⟨false, some (noise ++ f.take m)⟩ :: List.replicate (noise.length + 2) Input.idle ++ [⟨false, some p⟩]

/-- Ten bytes of noise. -/
def noise10 : List Byte := List.replicate 10 0xFF

/-- R133 at its corners, each a state with its inputs: ten bytes of noise and one of the frame, no noise and ten bytes of
the frame; pad responses that are the rest of the frame, and pad responses that fail (an empty one, a wrong LEN with
m = 1, a wrong ETX). -/
theorem witness_ResyncWithPadding :
    (ResyncPremises (resyncWith noise10 frameW1 (frameW1.drop 1) 1) noise10 frameW1 (frameW1.drop 1) 1 ∧
      frameOK (frameW1.take 1 ++ frameW1.drop 1) = true) ∧
    (ResyncPremises (resyncWith [] frameW1 (frameW1.drop 10) 10) [] frameW1 (frameW1.drop 10) 10 ∧
      frameOK (frameW1.take 10 ++ frameW1.drop 10) = true) ∧
    (ResyncPremises (resyncWith noise10 frameW1 [] 1) noise10 frameW1 [] 1 ∧
      frameOK (frameW1.take 1 ++ []) = false) ∧
    (ResyncPremises (resyncWith noise10 frameW1 (0x07 :: frameW1.drop 2) 1) noise10 frameW1
        (0x07 :: frameW1.drop 2) 1 ∧ frameOK (frameW1.take 1 ++ 0x07 :: frameW1.drop 2) = false) ∧
    ResyncPremises (resyncWith [] frameW1 [0xFF] 10) [] frameW1 [0xFF] 10 ∧
      frameOK (frameW1.take 10 ++ [0xFF]) = false := by
  refine ⟨⟨?_, ?_⟩, ⟨?_, ?_⟩, ⟨?_, ?_⟩, ⟨?_, ?_⟩, ?_, ?_⟩ <;> decide

/-- SCAN at W2's STX, the pad response to come. -/
def scanThenPad (p : List Byte) : State :=
  { scanAt chunkW2 2 with inputs := [Input.idle, ⟨false, some p⟩, Input.idle] }

/-- W2a and W2b: a pad response that completes the frame, and one that does not. -/
theorem witness_CandidateSendsExactlyItsFrame :
    (scanThenPad [0x00, 0x03]).Inv ∧ (scanThenPad [0x00, 0xFF]).Inv ∧ (scanThenPad [0x00, 0x03]).st = .scan ∧
      (scanThenPad [0x00, 0x03]).chunk.seq 11 = .ok chunkW2 ∧
      (scanThenPad [0x00, 0x03]).chunk.read 11 2 = .ok 0x02 ∧ (padCount 11 2).toNat = 2 ∧
      (scanThenPad [0x00, 0x03]).inputs = Input.idle :: ⟨false, some [0x00, 0x03]⟩ :: Input.idle :: [] ∧
      frameOK (chunkW2.drop 2 ++ [0x00, 0x03]) = true ∧ frameOK (chunkW2.drop 2 ++ [0x00, 0xFF]) = false :=
  ⟨inv_scanAt, inv_scanAt, by decide, by decide, by decide, by decide, by decide, by decide, by decide⟩

/-- The fast-path state, with other values in every dead register and stale bytes past CLEN. -/
def fastStale : State :=
  { fastWith [0xFF, 0x02] with
    chunk := ((fastWith [0xFF, 0x02]).chunk.write 2 [0x08, 0x08])
    idx := 7, cand := Buffer.empty.write 0 [1, 2, 3], candLen := 3, need := 5, hit := true }

theorem witness_DeadRegistersNeverMatter :
    fastStale.Inv ∧ (fastWith [0xFF, 0x02]).Inv ∧ fastStale.Agree (fastWith [0xFF, 0x02]) ∧
      fastStale ≠ fastWith [0xFF, 0x02] :=
  ⟨by show State.FastInv _; decide, by show State.FastInv _; decide,
    ⟨rfl, rfl, rfl, rfl, rfl, rfl, rfl, fun _ => by decide, by decide, by decide, by decide⟩, by decide⟩

theorem witness_NothingIsCarriedIntoAnIteration :
    State.reset.Inv ∧ ({ State.reset with idx := 7, hit := true, candLen := 3 } : State).Inv :=
  ⟨inv_reset, by show State.PollInv _; decide⟩

end Sys2Proof.Machine.Tests
end

section
/-! SUPPORT. A step by what it sees (R10): the operation decoded, or the wait; and every step lets one input pass. -/

namespace Sys2Proof.Machine

variable {s t : State}

/-! ## What the step does with what it sees -/

theorem step_of_see_word {w : OpWord} {i : Instr} (hw : see s = .word w) (hi : decode w = .ok i) :
    step s = exec i s := by
  simp only [step, hw, hi]

theorem step_of_see_wait (h : see s = .wait) : step s = .next s.tick := by
  simp only [step, h]

/-! ## What the step sees with no reset and no response -/

theorem see_of_no_response (hr : s.input.rst = false) (hd : s.input.resp = none) :
    see s = seeRegisters s := by
  simp only [see, hr, hd, Bool.false_eq_true, if_false]

/-- R10 (b): POLL and PAD are the states whose step needs a response. -/
theorem seeRegisters_eq_wait (hs : s.st = .poll ∨ s.st = .pad) : seeRegisters s = .wait := by
  rcases hs with hs | hs <;> simp only [seeRegisters, hs]

/-! ## The input list -/

/-- Whatever a step has done, it has let its own input entry pass (assumption 1). Only SCAN_HIT's next state is a
conditional, its pad request, and neither branch writes the inputs. -/
theorem StepEffect.inputs_eq_tail (h : StepEffect s t) : t.inputs = s.inputs.tail := by
  cases h
  case scanHit => exact State.requestPad_inputs _
  all_goals rfl

theorem step_inputs (h : step s = .next t) : t.inputs = s.inputs.tail :=
  (step_effect h).inputs_eq_tail

end Sys2Proof.Machine

open Sys2Proof.Machine

/-- Settles O24: `step` is `exec` where a word is seen and decoded, and the effect of any step that answers a next
state drops one input entry. -/
theorem stepRunsDecodedOperation : Obligations.StepRunsDecodedOperation := by
  intro s w i hw hi
  exact ⟨step_of_see_word hw hi, fun _ ht => step_inputs ht⟩

/-- Settles O26: with no reset and no response the step looks at the control state, sees the wait in POLL and PAD, and
answers `State.tick`. That a wait is a step is the model's choice (assumption 1). -/
theorem stepWaitsForResponse : Obligations.StepWaitsForResponse := by
  intro s hr hd hs
  have hwait : see s = .wait := (see_of_no_response hr hd).trans (seeRegisters_eq_wait hs)
  exact step_of_see_wait hwait

end

section
/-! SUPPORT. The invariants of R33 by control state, what a step leaves of them, and O38. -/

namespace Sys2Proof.Machine

variable {s t : State}

/-! ## R33, one row a control state -/

theorem State.inv_iff_pollInv (hs : s.st = .poll) : s.Inv ↔ s.PollInv := by simp only [State.Inv, hs]
theorem State.inv_iff_fastInv (hs : s.st = .fast) : s.Inv ↔ s.FastInv := by simp only [State.Inv, hs]
theorem State.inv_iff_scanInv (hs : s.st = .scan) : s.Inv ↔ s.ScanInv := by simp only [State.Inv, hs]
theorem State.inv_iff_padInv (hs : s.st = .pad) : s.Inv ↔ s.PadInv := by simp only [State.Inv, hs]
theorem State.inv_iff_candInv (hs : s.st = .cand) : s.Inv ↔ s.CandInv := by simp only [State.Inv, hs]

theorem State.enterPoll_inv (s : State) : s.enterPoll.Inv := (State.inv_iff_pollInv rfl).2 rfl

/-! ## Buffers whose live elements hold values -/

theorem Buffer.held_of_seq {b : Buffer} {len : Count} {w : List Byte} (h : b.seq len = .ok w) :
    b.held len = true := (b.held_iff len).2 ⟨w, h⟩

/-- A byte of the sequence is what a read at its place answers. -/
theorem Buffer.read_of_getElem? {b : Buffer} {len : Count} {w : List Byte} {i : Nat} {x : Byte}
    (h : b.seq len = .ok w) (hx : w[i]? = some x) : b.read len i = .ok x := by
  obtain ⟨hl, hr⟩ := (b.seq_eq_ok len w).1 h
  obtain ⟨hi, -⟩ := List.getElem?_eq_some_iff.1 hx
  exact (Buffer.read_eq_ok ..).2 ⟨hl ▸ hi, hr i x hx⟩

/-! ## What R33's rows say of the counters and the chunk -/

theorem State.ChunkHeld.clen_le (h : s.ChunkHeld) : s.clen.toNat ≤ 11 := by
  obtain ⟨-, h11, -⟩ := h
  exact h11

theorem State.ChunkHeld.exists_seq (h : s.ChunkHeld) : ∃ c, s.chunk.seq s.clen = .ok c := by
  obtain ⟨-, -, hheld⟩ := h
  exact (Buffer.held_iff ..).1 hheld

theorem State.CandHeld.exists_seq (h : s.CandHeld) : ∃ w, s.cand.seq s.candLen = .ok w := by
  obtain ⟨-, -, -, -, -, -, hheld⟩ := h
  exact (Buffer.held_iff ..).1 hheld

theorem State.ScanInv.clen_le (h : s.ScanInv) : s.clen.toNat ≤ 11 := by
  obtain ⟨-, hchunk, -⟩ := h
  exact hchunk.clen_le

/-- R24: in SCAN short of the chunk's end IDX is a position of the chunk. -/
theorem State.ScanInv.idx_lt (h : s.ScanInv) (hi : s.idx ≠ s.clen) : s.idx.toNat < s.clen.toNat := by
  obtain ⟨-, -, hle⟩ := h
  exact lt_of_le_of_ne hle fun he => hi (BitVec.eq_of_toNat_eq he)

/-- R126: IDX moved on by one from a position of the chunk does not wrap. -/
theorem toNat_idx_succ {idx clen : Count} (hlt : idx.toNat < clen.toNat) (h11 : clen.toNat ≤ 11) :
    (idx + 1).toNat = idx.toNat + 1 := toNat_succ_count (hlt.trans_le h11)

/-! ## The candidate SCAN_HIT forms -/

/-- SCAN_HIT's state before its pad request. -/
def State.formCand (s : State) (w : List Byte) : State :=
  { s.tick with
    cand := s.cand.write 0 w
    candLen := s.clen - s.idx
    need := padCount s.clen s.idx }

theorem State.hitState_eq (s : State) (w : List Byte) : s.hitState w = (s.formCand w).requestPad := rfl

/-- R122: the slice SCAN_HIT copies begins with the scanned byte. -/
theorem getElem?_zero_of_hit {b : Buffer} {clen idx : Count} {w : List Byte} {x : Byte}
    (hlt : idx.toNat < clen.toNat) (hb : b.read clen idx.toNat = .ok x)
    (hw : b.slice clen idx.toNat (clen - idx).toNat = .ok w) : w[0]? = some x := by
  obtain ⟨hl, hr⟩ := (Buffer.slice_eq_ok ..).1 hw
  rw [toNat_sub_count hlt.le] at hl
  have h0 : w[0]? = some w[0] := List.getElem?_eq_getElem (by omega)
  have hread := hr 0 _ h0
  rw [Nat.add_zero, hb] at hread
  rw [h0, Except.ok.inj hread]

/-- R33, R122: the state SCAN_HIT forms its candidate in holds a candidate at IDX. -/
theorem State.formCand_candHeld {w : List Byte} (h : s.ScanInv) (hi : s.idx ≠ s.clen)
    (hb : s.chunk.read s.clen s.idx.toNat = .ok 0x02)
    (hw : s.chunk.slice s.clen s.idx.toNat (s.clen - s.idx).toNat = .ok w) :
    (s.formCand w).CandHeld := by
  have hlt := h.idx_lt hi
  obtain ⟨-, ⟨h1, h11, hheld⟩, -⟩ := h
  have hseq : (s.formCand w).cand.seq (s.formCand w).candLen = .ok w := seq_of_hit _ _ hlt.le h11 hw
  have hlen : (s.formCand w).candLen.toNat = s.clen.toNat - s.idx.toNat := toNat_sub_count hlt.le
  exact ⟨⟨h1, h11, hheld⟩, hlt, hb,
    Buffer.read_of_getElem? hseq (getElem?_zero_of_hit hlt hb hw), hlen.ge,
    hlen ▸ (Nat.sub_le _ _).trans h11, Buffer.held_of_seq hseq⟩

/-- R33, R122: with a candidate held and NEED its pad count, the pad request (or, for no bytes, its omission) leads to a
state that meets the invariants. -/
theorem State.requestPad_inv (ho : s.out = .none) (hc : s.CandHeld)
    (hlen : s.candLen.toNat = s.clen.toNat - s.idx.toNat)
    (hneed : s.need.toNat = Config.frameLen - s.candLen.toNat) : s.requestPad.Inv := by
  unfold State.requestPad
  split
  · next hpos =>
    have hle : s.need.toNat ≤ Config.padMax := by
      obtain ⟨-, hlt, -⟩ := id hc
      have hn : s.need.toNat = 11 - s.candLen.toNat := hneed
      show s.need.toNat ≤ 10
      omega
    exact (State.inv_iff_padInv rfl).2 ⟨rfl, hpos, hle, hc, hlen, hneed⟩
  · exact (State.inv_iff_candInv rfl).2 ⟨ho, hc⟩

/-- R33: SCAN_HIT's next state meets the invariants. -/
theorem State.hitState_inv {w : List Byte} (h : s.ScanInv) (hi : s.idx ≠ s.clen)
    (hb : s.chunk.read s.clen s.idx.toNat = .ok 0x02)
    (hw : s.chunk.slice s.clen s.idx.toNat (s.clen - s.idx).toNat = .ok w) : (s.hitState w).Inv := by
  have hlt := h.idx_lt hi
  have hlen : (s.formCand w).candLen.toNat = s.clen.toNat - s.idx.toNat := toNat_sub_count hlt.le
  have hneed : (s.formCand w).need.toNat = Config.frameLen - (s.formCand w).candLen.toNat :=
    hlen ▸ toNat_padCount hlt.le h.clen_le
  exact State.requestPad_inv h.1 (State.formCand_candHeld h hi hb hw) hlen hneed

/-! ## The other states a step enters -/

/-- R103: a response of 1 to 11 bytes captured is a chunk held. -/
theorem State.capture_inv {data : List Byte} (h1 : 1 ≤ data.length) (h11 : data.length ≤ 11) :
    ({ s.tick.respond data with
      chunk := s.chunk.write 0 data, clen := Count.of data.length, st := .fast } : State).Inv := by
  have hlen : (Count.of data.length).toNat = data.length := toNat_countOf _ h11
  refine (State.inv_iff_fastInv rfl).2 ⟨rfl, ?_, ?_, Buffer.held_of_seq (Buffer.seq_write_zero _ _ h11)⟩
  · exact h1.trans hlen.ge
  · exact hlen.le.trans h11

/-- R123: the pad response appended, the candidate keeps its first byte and has at most 11. -/
theorem State.fill_inv {data : List Byte} (h : s.PadInv) (hn : data.length ≤ s.need.toNat) :
    ({ s.tick.respond data with
      cand := s.cand.write s.candLen.toNat data
      candLen := s.candLen + Count.of data.length
      st := .cand } : State).Inv := by
  obtain ⟨-, hn1, -, ⟨hchunk, hlt, hb, hc0, hle, -, hheld⟩, -, hneed⟩ := h
  have hsum : s.candLen.toNat + data.length ≤ Config.frameLen := by omega
  obtain ⟨u, hu⟩ := (Buffer.held_iff ..).1 hheld
  have hseq := Buffer.seq_write_append _ _ _ _ hu hsum
  have hlen := toNat_add_countOf _ _ hsum
  have hu0 : (u ++ data)[0]? = some Config.stx := by
    obtain ⟨x, hx, hr⟩ := Buffer.read_of_seq _ _ _ 0 hu (by omega)
    rw [hc0] at hr
    rw [List.getElem?_append_left (List.getElem?_eq_some_iff.1 hx).1, hx, Except.ok.inj hr]
  exact (State.inv_iff_candInv rfl).2 ⟨rfl, hchunk, hlt, hb, Buffer.read_of_getElem? hseq hu0,
    hle.trans (hlen ▸ Nat.le_add_right _ _), hlen.le.trans hsum, Buffer.held_of_seq hseq⟩

/-- R121, R124, R125: IDX moved on by one from a position of the chunk is at most CLEN. -/
theorem idx_succ_le {idx clen : Count} (hlt : idx.toNat < clen.toNat) (h11 : clen.toNat ≤ 11) :
    (idx + 1).toNat ≤ clen.toNat := (toNat_idx_succ hlt h11).trans_le hlt

/-- R33: every effect of a step keeps the invariants. -/
theorem StepEffect.inv (h : StepEffect s t) (hinv : s.Inv) : t.Inv := by
  cases h with
  | reset => exact State.enterPoll_inv _
  | wait => exact hinv
  | pollEmpty => exact State.enterPoll_inv _
  | pollCapture hr data hd hs ho h1 h11 => exact State.capture_inv h1 h11
  | padFill hr data hd hs ho hn => exact State.fill_inv ((State.inv_iff_padInv hs).1 hinv) hn
  | fastAccept => exact State.enterPoll_inv _
  | fastReject hr hd hs =>
    obtain ⟨ho, hchunk⟩ := (State.inv_iff_fastInv hs).1 hinv
    exact (State.inv_iff_scanInv rfl).2 ⟨ho, hchunk, Nat.zero_le _⟩
  | scanEnd => exact State.enterPoll_inv _
  | scanSkip hr hd hs hi =>
    have hscan := (State.inv_iff_scanInv hs).1 hinv
    obtain ⟨ho, hchunk, -⟩ := id hscan
    refine (State.inv_iff_scanInv ?_).2 ⟨ho, hchunk, idx_succ_le (hscan.idx_lt hi) hchunk.clen_le⟩
    exact hs
  | scanHit hr hd hs hi hb w hw => exact State.hitState_inv ((State.inv_iff_scanInv hs).1 hinv) hi hb hw
  | candAcceptFirst => exact State.enterPoll_inv _
  | candAcceptAll hr hd hs | candReject hr hd hs =>
    obtain ⟨ho, hchunk, hlt, -⟩ := (State.inv_iff_candInv hs).1 hinv
    exact (State.inv_iff_scanInv rfl).2 ⟨ho, hchunk, idx_succ_le hlt hchunk.clen_le⟩

end Sys2Proof.Machine

open Sys2Proof.Machine

/-- Settles O38: each effect of a step leads to a state that meets its row of R33. -/
theorem stepKeepsTheInvariants : Obligations.StepKeepsTheInvariants :=
  fun _ _ hinv h => (step_effect h).inv hinv

end

section
/-! SUPPORT. The port conversation (R34, R54, R62): one rule a port event, and O39. -/

namespace Sys2Proof.Machine

variable {s t : State}

/-! ## What each port operation leaves of an orderly conversation -/

theorem State.request_portInv {n : Count} (h : s.PortInv) (ho : s.out = .none)
    (h1 : 1 ≤ n.toNat) (h11 : n.toNat ≤ Config.pollMax) : (s.request n).PortInv := by
  simp only [State.PortInv, State.request_log, State.request_out, List.foldl_append, h.trans (congrArg some ho),
    List.foldl_cons, List.foldl_nil, portStep]
  exact if_pos ⟨h1, h11⟩

theorem State.respond_portInv {n : Count} {data : List Byte} (h : s.PortInv) (ho : s.out = .req n)
    (hn : data.length ≤ n.toNat) : (s.respond data).PortInv := by
  simp only [State.PortInv, State.respond_log, State.respond_out, List.foldl_append, h.trans (congrArg some ho),
    List.foldl_cons, List.foldl_nil, portStep]
  exact if_pos hn

theorem State.sinkSend_portInv {r : List Byte} (h : s.PortInv) (ho : s.out = .none)
    (hr : r.length = Config.reportLen) : (s.sinkSend r).PortInv := by
  simp only [State.PortInv, State.sinkSend_log, State.sinkSend_out, List.foldl_append, h.trans (congrArg some ho), ho,
    List.foldl_cons, List.foldl_nil, portStep]
  exact if_pos hr

theorem State.trace_portInv {k : TraceKind} {d : List Byte} (h : s.PortInv) : (s.trace k d).PortInv := by
  simp only [State.PortInv, State.trace_log, State.trace_out, List.foldl_append, h, portStep_traceEvents]

/-- R101: the poll request follows a conversation with nothing outstanding. -/
theorem State.enterPoll_portInv (h : s.PortInv) (ho : s.out = .none) : s.enterPoll.PortInv :=
  State.request_portInv (s := { s with st := .poll }) h ho (by decide) (by decide)

/-- R190: `Reset` ends whatever was outstanding, and the poll request follows it. -/
theorem State.clear_enterPoll_portInv (h : s.PortInv) : s.clear.enterPoll.PortInv := by
  have hreset : ({ s.clear with out := .none } : State).PortInv := by
    simp only [State.PortInv, State.clear_log, List.foldl_append, h, List.foldl_cons, List.foldl_nil, portStep]
  exact State.enterPoll_portInv (s := { s.clear with out := .none }) hreset rfl

/-- R122: the pad request is for 1 to 11 bytes, or is not issued. -/
theorem State.requestPad_portInv (h : s.PortInv) (ho : s.out = .none) (hn : s.need.toNat ≤ Config.pollMax) :
    s.requestPad.PortInv := by
  unfold State.requestPad
  split
  · next hpos => exact State.request_portInv h ho hpos hn
  · exact h

/-- R124: the candidate's report is sent with no read outstanding. -/
theorem State.sentState_portInv {w : List Byte} (h : s.PortInv) (ho : s.out = .none) (hf : frameOK w = true) :
    (s.sentState w).PortInv :=
  State.sinkSend_portInv (s := s.tick.trace .cand w) (State.trace_portInv (s := s.tick) h) ho (payload_length hf)

/-- R62: every effect of a step keeps the conversation orderly. -/
theorem StepEffect.portInv (h : StepEffect s t) (hinv : s.Inv) (hp : s.PortInv) : t.PortInv := by
  cases h with
  | reset => exact State.clear_enterPoll_portInv (s := s.tick.abandon) hp
  | wait => exact hp
  | pollEmpty hr hd hs ho =>
    exact State.enterPoll_portInv (State.respond_portInv (s := s.tick) hp ho (Nat.zero_le _)) rfl
  | pollCapture hr data hd hs ho h1 h11 => exact State.respond_portInv (s := s.tick) hp ho h11
  | padFill hr data hd hs ho hn => exact State.respond_portInv (s := s.tick) hp ho hn
  | fastAccept hr hd hs w hw hf =>
    have ho := ((State.inv_iff_fastInv hs).1 hinv).1
    exact State.enterPoll_portInv (State.sinkSend_portInv (s := s.tick) hp ho (payload_length hf)) ho
  | fastReject => exact State.trace_portInv (s := s.tick) hp
  | scanEnd hr hd hs =>
    exact State.enterPoll_portInv (s := s.tick) hp ((State.inv_iff_scanInv hs).1 hinv).1
  | scanSkip => exact hp
  | scanHit hr hd hs hi hb w hw =>
    obtain ⟨ho, ⟨-, h11, -⟩, hle⟩ := (State.inv_iff_scanInv hs).1 hinv
    exact State.requestPad_portInv (s := s.formCand w) hp ho ((toNat_padCount hle h11).trans_le (Nat.sub_le _ _))
  | candAcceptFirst hr hd hs w hw hf =>
    have ho := ((State.inv_iff_candInv hs).1 hinv).1
    exact State.enterPoll_portInv (State.sentState_portInv hp ho hf) ho
  | candAcceptAll hr hd hs w hw hf =>
    exact State.sentState_portInv hp ((State.inv_iff_candInv hs).1 hinv).1 hf
  | candReject => exact State.trace_portInv (s := s.tick) hp

end Sys2Proof.Machine

open Sys2Proof.Machine

/-- Settles O39: each effect of a step adds events the conversation admits where it stands. -/
theorem stepKeepsThePortConversation : Obligations.StepKeepsThePortConversation :=
  fun _ _ hinv hp h => (step_effect h).portInv hinv hp

end

section
/-! SUPPORT. What a step adds to the iteration in progress (R131), position by position, and O41. -/

namespace Sys2Proof.Machine

variable {s t : State} {es : List Event}

/-! ## How the counts of an iteration grow with its log -/

/-- Events with no poll request among them belong to the iteration in progress. -/
theorem iteration_append_of_notMem : ∀ {es : List Event} (l : List Event), Event.readReq 11#4 ∉ es →
    iteration (l ++ es) = iteration l ++ es
  | [], l, _ => by simp
  | e :: es, l, h => by
    obtain ⟨he, hes⟩ := not_or.1 (List.mem_cons.not.1 h)
    rw [← List.singleton_append, ← List.append_assoc, iteration_append_of_notMem _ hes,
      iteration_append _ _ (Ne.symm he), List.append_assoc]

theorem readReq_notMem_traceEvents (n : Count) (b : Bool) (k : TraceKind) (d : List Byte) :
    Event.readReq n ∉ traceEvents b k d := by
  cases b <;> simp [traceEvents]

theorem State.padRequests_of_log (hl : t.log = s.log ++ es) (he : Event.readReq 11#4 ∉ es) :
    t.padRequests = s.padRequests + (es.filter Event.isReq).length := by
  simp only [State.padRequests, hl, iteration_append_of_notMem _ he, List.filter_append, List.length_append]

theorem State.bytesConsumed_of_log (hl : t.log = s.log ++ es) (he : Event.readReq 11#4 ∉ es) :
    t.bytesConsumed = s.bytesConsumed + (es.map Event.consumed).sum := by
  simp only [State.bytesConsumed, hl, iteration_append_of_notMem _ he, List.map_append, List.sum_append]

theorem State.reportsSent_of_log (hl : t.log = s.log ++ es) (he : Event.readReq 11#4 ∉ es) :
    t.reportsSent = s.reportsSent + (reports es).length := by
  simp only [State.reportsSent, hl, iteration_append_of_notMem _ he, reports_append, List.length_append]

/-- R156: a trace changes no count. -/
theorem State.counts_of_trace {b : Bool} {k : TraceKind} {d : List Byte}
    (hl : t.log = s.log ++ traceEvents b k d) :
    t.padRequests = s.padRequests ∧ t.bytesConsumed = s.bytesConsumed ∧ t.reportsSent = s.reportsSent := by
  have he := readReq_notMem_traceEvents 11#4 b k d
  refine ⟨?_, ?_, ?_⟩
  · simp [State.padRequests_of_log hl he]
  · simp [State.bytesConsumed_of_log hl he]
  · simp [State.reportsSent_of_log hl he]

/-! ## R131, one row a control state -/

theorem State.iterInv_iff_poll (hs : s.st = .poll) : s.IterInv ↔ iteration s.log = [] := by
  simp only [State.IterInv, hs]
theorem State.iterInv_iff_fast (hs : s.st = .fast) :
    s.IterInv ↔ s.padRequests = 0 ∧ s.bytesConsumed = s.clen.toNat ∧ s.reportsSent = 0 := by
  simp only [State.IterInv, hs]
theorem State.iterInv_iff_scanIter (hs : s.st = .scan) : s.IterInv ↔ s.ScanIter := by
  simp only [State.IterInv, hs]
theorem State.iterInv_iff_padIter (hs : s.st = .pad) : s.IterInv ↔ s.PadIter := by
  simp only [State.IterInv, hs]
theorem State.iterInv_iff_candIter (hs : s.st = .cand) : s.IterInv ↔ s.CandIter := by
  simp only [State.IterInv, hs]

/-- R101: with its poll request a new iteration begins. -/
theorem State.enterPoll_iterInv (s : State) : s.enterPoll.IterInv :=
  (State.iterInv_iff_poll rfl).2 (iteration_poll _)

/-- R28: HIT's meaning is kept where neither HIT nor the number of reports changes. -/
theorem State.HitInv.congr (h : s.HitInv) (hhit : t.hit = s.hit) (hm : t.scanMode = s.scanMode)
    (hr : t.reportsSent = s.reportsSent) : t.HitInv := by
  rw [State.HitInv, hhit, hm, hr]
  exact h

/-! ## The bounds from one position to the next -/

theorem padPositions_mono (clen : Nat) {i j : Nat} (h : i ≤ j) : padPositions clen i ≤ padPositions clen j := by
  unfold padPositions
  split <;> omega

/-- R129: every position but position 0 of a full chunk can form a candidate that is padded. -/
theorem padPositions_succ {clen i : Nat} (h : ¬(i = 0 ∧ clen = Config.frameLen)) :
    padPositions clen (i + 1) = padPositions clen i + 1 := by
  unfold padPositions
  split <;> omega

theorem padBudget_le_succ (clen i : Nat) : padBudget clen i ≤ padBudget clen (i + 1) := Nat.le_add_right _ _

/-- The bound on reports at one position is no longer tight at the next, where no report was sent. -/
theorem two_mul_le_padPositions_succ {r clen i : Nat} (h : 2 * r ≤ padPositions clen i + 1) :
    2 * r ≤ padPositions clen (i + 1) := by
  unfold padPositions at *
  split at h <;> split <;> omega

/-- R131: the scan's bounds at the next position, where the one left sent no report. -/
theorem State.scanIter_next (hi : t.idx.toNat = s.idx.toNat + 1) (hc : t.clen = s.clen) (hh : t.HitInv)
    (hp : t.padRequests ≤ padPositions s.clen.toNat (s.idx.toNat + 1))
    (hb : t.bytesConsumed ≤ s.clen.toNat + padBudget s.clen.toNat (s.idx.toNat + 1))
    (hr : 2 * t.reportsSent ≤ padPositions s.clen.toNat s.idx.toNat + 1) : t.ScanIter := by
  have hr' := two_mul_le_padPositions_succ hr
  rw [State.ScanIter, hi, hc]
  exact ⟨hh, hp, hb, by omega, fun he => by omega⟩

/-! ## What an accepted candidate says of the chunk (R128, R129) -/

theorem length_of_frameOK {w : List Byte} (h : frameOK w = true) : w.length = 11 := by
  simp only [frameOK, Bool.and_eq_true, decide_eq_true_eq, and_assoc] at h
  exact h.1

theorem getElem?_one_of_frameOK {w : List Byte} (h : frameOK w = true) : w[1]? = some Config.lenMark := by
  simp only [frameOK, Bool.and_eq_true, beq_iff_eq, and_assoc] at h
  obtain ⟨-, -, hmark, -⟩ := h
  exact hmark

/-- R129: an accepted candidate is not the whole of a full chunk, which is no frame. -/
theorem State.SlowInv.not_full (h : s.SlowInv) (hs : s.st = .cand) (hc : s.ChunkHeld) {w : List Byte}
    (hw : s.cand.seq s.candLen = .ok w) (hf : frameOK w = true) :
    ¬(s.idx.toNat = 0 ∧ s.clen.toNat = Config.frameLen) := by
  rintro ⟨h0, h11⟩
  obtain ⟨c, hcs⟩ := hc.exists_seq
  have hclen : c.length = w.length :=
    ((Buffer.seq_eq_ok ..).1 hcs).1.trans (h11.trans (length_of_frameOK hf).symm)
  have htake := h.2 (.inr hs) c w hcs hw
  rw [h0, Nat.sub_zero, List.drop_zero, hclen, List.take_length] at htake
  have hno := h.1 (.inr (.inr hs)) c hcs
  rw [← htake, hf] at hno
  contradiction

/-- R131: the byte after an accepted candidate's STX is its length mark, so the next position is no candidate. -/
theorem State.SlowInv.next_ne_stx (h : s.SlowInv) (hs : s.st = .cand) (hc : s.ChunkHeld) {w : List Byte}
    (hw : s.cand.seq s.candLen = .ok w) (hf : frameOK w = true) :
    s.chunk.read s.clen (s.idx.toNat + 1) ≠ .ok Config.stx := by
  intro hread
  obtain ⟨c, hcs⟩ := hc.exists_seq
  have hlt := ((Buffer.read_eq_ok ..).1 hread).1
  have hclen := ((Buffer.seq_eq_ok ..).1 hcs).1
  obtain ⟨x, hx, hxr⟩ := Buffer.read_of_seq _ _ _ _ hcs hlt
  have htake := congrArg (·[1]?) (h.2 (.inr hs) c w hcs hw)
  simp only [List.getElem?_drop, hx] at htake
  rw [List.getElem?_take_of_lt (by omega), getElem?_one_of_frameOK hf] at htake
  rw [hread, ← Option.some.inj htake] at hxr
  exact absurd (Except.ok.inj hxr) (by decide)

/-! ## The bounds kept, operation by operation -/

/-- R103: the chunk captured is all the iteration has consumed. -/
theorem State.capture_iterInv {data : List Byte} (h : iteration s.log = []) (h11 : data.length ≤ 11) :
    ({ s.tick.respond data with
      chunk := s.chunk.write 0 data, clen := Count.of data.length, st := .fast } : State).IterInv := by
  have hlen : (Count.of data.length).toNat = data.length := toNat_countOf _ h11
  have hiter : iteration (s.log ++ [.readResp data]) = [.readResp data] := by
    rw [iteration_readResp, h, List.nil_append]
  refine (State.iterInv_iff_fast rfl).2 ⟨?_, ?_, ?_⟩
  · exact congrArg (fun l => (l.filter Event.isReq).length) hiter
  · exact (congrArg (fun l => (l.map Event.consumed).sum) hiter).trans hlen.symm
  · exact congrArg (fun l => (reports l).length) hiter

/-- R105: the slow path begins with no candidate emitted. -/
theorem State.scanIter_of_fastReject {w : List Byte} (hs : s.st = .fast) (h : s.IterInv)
    (hl : t.log = s.log ++ traceEvents s.traceEn .raw w) (hc : t.clen = s.clen) (hhit : t.hit = false) :
    t.ScanIter := by
  obtain ⟨hp, hb, hr⟩ := (State.iterInv_iff_fast hs).1 h
  obtain ⟨hp', hb', hr'⟩ := State.counts_of_trace hl
  rw [hp] at hp'
  rw [hb, ← hc] at hb'
  rw [hr] at hr'
  refine ⟨⟨?_, fun _ => hr'⟩, hp'.trans_le (Nat.zero_le _), hb'.trans_le (Nat.le_add_right _ _), ?_, ?_⟩
  · rw [hhit, hr']; rfl
  · rw [hr']; exact Nat.zero_le _
  · rw [hr']; exact fun he => absurd he.symm (Nat.succ_ne_zero _)

/-- R121: a skip leaves the counts, and the next position allows no less. -/
theorem State.ScanIter.skip (h : s.ScanIter) (hi : s.idx ≠ s.clen) (hinv : s.ScanInv) :
    ({ s.tick with idx := s.idx + 1 } : State).ScanIter := by
  obtain ⟨hh, hp, hb, hr, -⟩ := h
  exact State.scanIter_next (s := s) (toNat_idx_succ (hinv.idx_lt hi) hinv.clen_le) rfl hh
    (hp.trans (padPositions_mono _ (Nat.le_succ _)))
    (hb.trans (Nat.add_le_add_left (padBudget_le_succ _ _) _)) hr

/-- R131: at an STX the bound on the reports is not tight. -/
theorem State.ScanIter.reports_le_of_stx (h : s.ScanIter)
    (hb : s.chunk.read s.clen s.idx.toNat = .ok Config.stx) :
    2 * s.reportsSent ≤ padPositions s.clen.toNat s.idx.toNat := by
  obtain ⟨-, -, -, hr, htight⟩ := h
  exact Nat.lt_succ_iff.1 (lt_of_le_of_ne hr (mt htight (not_not.2 hb)))

/-- R122, R129: where a pad is requested the position is one of those that can form a padded candidate. -/
theorem State.ScanIter.requestPad {n : Count} (h : s.ScanIter)
    (hb : s.chunk.read s.clen s.idx.toNat = .ok Config.stx)
    (hn : n ≠ 11#4) (hfull : ¬(s.idx.toNat = 0 ∧ s.clen.toNat = Config.frameLen))
    (hl : t.log = s.log ++ [.readReq n]) (hi : t.idx = s.idx) (hc : t.clen = s.clen)
    (hhit : t.hit = s.hit) (hm : t.scanMode = s.scanMode) : t.PadIter := by
  have hstx := h.reports_le_of_stx hb
  obtain ⟨hh, hp, hbytes, -, -⟩ := h
  have hne : Event.readReq 11#4 ∉ [Event.readReq n] := by simpa using hn.symm
  have hp' : t.padRequests = s.padRequests + 1 := State.padRequests_of_log hl hne
  have hb' : t.bytesConsumed = s.bytesConsumed := State.bytesConsumed_of_log hl hne
  have hr' : t.reportsSent = s.reportsSent := State.reportsSent_of_log hl hne
  rw [State.PadIter, hi, hc, hp', hb', hr', padPositions_succ hfull]
  exact ⟨hh.congr hhit hm hr', Nat.succ_le_succ hp, hbytes, hstx⟩

/-- R122: where no pad is requested the candidate's position allows no less. -/
theorem State.ScanIter.candIter (h : s.ScanIter)
    (hb : s.chunk.read s.clen s.idx.toNat = .ok Config.stx) : s.CandIter := by
  have hstx := h.reports_le_of_stx hb
  obtain ⟨hh, hp, hbytes, -, -⟩ := h
  exact ⟨hh, hp.trans (padPositions_mono _ (Nat.le_succ _)),
    hbytes.trans (Nat.add_le_add_left (padBudget_le_succ _ _) _), hstx⟩

/-- R122, R129: SCAN_HIT adds a pad request, but for position 0 of a full chunk. -/
theorem State.ScanIter.hitState {w : List Byte} (h : s.ScanIter) (hinv : s.ScanInv) (hi : s.idx ≠ s.clen)
    (hb : s.chunk.read s.clen s.idx.toNat = .ok 0x02) : (s.hitState w).IterInv := by
  have hlt := hinv.idx_lt hi
  have h11 := hinv.clen_le
  have hneed : (padCount s.clen s.idx).toNat = 11 - (s.clen.toNat - s.idx.toNat) := toNat_padCount hlt.le h11
  rw [State.hitState_eq, State.requestPad]
  split
  · next hpos =>
    have hpos' : 0 < (padCount s.clen s.idx).toNat := hpos
    have hn : padCount s.clen s.idx ≠ 11#4 := fun he => by
      have : (padCount s.clen s.idx).toNat = 11 := congrArg BitVec.toNat he
      omega
    refine (State.iterInv_iff_padIter rfl).2 (h.requestPad hb hn ?_ rfl rfl rfl rfl rfl)
    rintro ⟨h0, hfull⟩
    have hfull' : s.clen.toNat = 11 := hfull
    omega
  · exact (State.iterInv_iff_candIter rfl).2 (h.candIter hb)

/-- R123: the pad bytes of a position are at most those its candidate asks for. -/
theorem State.PadIter.fill {data : List Byte} (h : s.PadIter)
    (hn : data.length ≤ Config.frameLen - (s.clen.toNat - s.idx.toNat))
    (hl : t.log = s.log ++ [.readResp data]) (hi : t.idx = s.idx) (hc : t.clen = s.clen)
    (hhit : t.hit = s.hit) (hm : t.scanMode = s.scanMode) : t.CandIter := by
  obtain ⟨hh, hp, hb, hr⟩ := h
  have hne : Event.readReq 11#4 ∉ [Event.readResp data] := by simp
  have hp' : t.padRequests = s.padRequests := State.padRequests_of_log hl hne
  have hb' : t.bytesConsumed = s.bytesConsumed + data.length := State.bytesConsumed_of_log hl hne
  have hr' : t.reportsSent = s.reportsSent := State.reportsSent_of_log hl hne
  rw [State.CandIter, hi, hc, hp', hb', hr']
  exact ⟨hh.congr hhit hm hr', hp, (Nat.add_le_add hb hn).trans_eq (Nat.add_assoc ..), hr⟩

/-- R124: with SCAN_MODE = ALL an accepted candidate adds a report, and the next position is no candidate. -/
theorem State.CandIter.accept {w : List Byte} (h : s.CandIter) (hm : s.scanMode = .all)
    (hfull : ¬(s.idx.toNat = 0 ∧ s.clen.toNat = Config.frameLen))
    (hnext : s.chunk.read s.clen (s.idx.toNat + 1) ≠ .ok Config.stx)
    (hl : t.log = s.log ++ traceEvents s.traceEn .cand w ++ [.report (payload w)])
    (hi : t.idx.toNat = s.idx.toNat + 1) (hc : t.clen = s.clen) (hchunk : t.chunk = s.chunk)
    (hhit : t.hit = true) (hm' : t.scanMode = s.scanMode) : t.ScanIter := by
  obtain ⟨-, hp, hb, hr⟩ := h
  have hl' := hl.trans (List.append_assoc ..)
  have hne : Event.readReq 11#4 ∉ traceEvents s.traceEn .cand w ++ [.report (payload w)] := by
    simp [readReq_notMem_traceEvents]
  have hp' : t.padRequests = s.padRequests := by
    simp [State.padRequests_of_log hl' hne, Event.isReq]
  have hb' : t.bytesConsumed = s.bytesConsumed := by
    simp [State.bytesConsumed_of_log hl' hne, Event.consumed]
  have hr' : t.reportsSent = s.reportsSent + 1 := by
    simp [State.reportsSent_of_log hl' hne]
  have hpos := padPositions_succ hfull
  rw [State.ScanIter, State.HitInv, hi, hc, hchunk, hhit, hm', hm, hp', hb', hr']
  exact ⟨⟨by simp, by simp⟩, hp, hb, by omega, fun _ => hnext⟩

/-- R125: a rejected candidate changes no count. -/
theorem State.CandIter.reject {w : List Byte} (h : s.CandIter)
    (hl : t.log = s.log ++ traceEvents s.traceEn .cand w) (hi : t.idx.toNat = s.idx.toNat + 1)
    (hc : t.clen = s.clen) (hhit : t.hit = s.hit) (hm : t.scanMode = s.scanMode) : t.ScanIter := by
  obtain ⟨hh, hp, hb, hr⟩ := h
  obtain ⟨hp', hb', hr'⟩ := State.counts_of_trace hl
  exact State.scanIter_next hi hc (hh.congr hhit hm hr') (hp'.trans_le hp) (hb'.trans_le hb)
    (hr' ▸ hr.trans (Nat.le_succ _))

/-- R131: every effect of a step keeps the bounds on the iteration in progress. -/
theorem StepEffect.iterInv (h : StepEffect s t) (hinv : s.Inv) (hslow : s.SlowInv) (hit : s.IterInv) :
    t.IterInv := by
  cases h with
  | reset => exact State.enterPoll_iterInv _
  | wait => exact hit
  | pollEmpty => exact State.enterPoll_iterInv _
  | pollCapture hr data hd hs ho h1 h11 => exact State.capture_iterInv ((State.iterInv_iff_poll hs).1 hit) h11
  | padFill hr data hd hs ho hn =>
    obtain ⟨-, -, -, -, hlen, hneed⟩ := (State.inv_iff_padInv hs).1 hinv
    refine (State.iterInv_iff_candIter rfl).2
      (((State.iterInv_iff_padIter hs).1 hit).fill ?_ rfl rfl rfl rfl rfl)
    rwa [← hlen, ← hneed]
  | fastAccept => exact State.enterPoll_iterInv _
  | fastReject hr hd hs =>
    exact (State.iterInv_iff_scanIter rfl).2 (State.scanIter_of_fastReject hs hit rfl rfl rfl)
  | scanEnd => exact State.enterPoll_iterInv _
  | scanSkip hr hd hs hi =>
    refine (State.iterInv_iff_scanIter ?_).2
      (((State.iterInv_iff_scanIter hs).1 hit).skip hi ((State.inv_iff_scanInv hs).1 hinv))
    exact hs
  | scanHit hr hd hs hi hb =>
    exact ((State.iterInv_iff_scanIter hs).1 hit).hitState ((State.inv_iff_scanInv hs).1 hinv) hi hb
  | candAcceptFirst => exact State.enterPoll_iterInv _
  | candAcceptAll hr hd hs w hw hf hm =>
    obtain ⟨-, hchunk, hlt, -⟩ := (State.inv_iff_candInv hs).1 hinv
    exact (State.iterInv_iff_scanIter rfl).2 (((State.iterInv_iff_candIter hs).1 hit).accept hm
      (hslow.not_full hs hchunk hw hf) (hslow.next_ne_stx hs hchunk hw hf) rfl
      (toNat_idx_succ hlt hchunk.clen_le) rfl rfl rfl rfl)
  | candReject hr hd hs w hw hf =>
    obtain ⟨-, hchunk, hlt, -⟩ := (State.inv_iff_candInv hs).1 hinv
    exact (State.iterInv_iff_scanIter rfl).2 (((State.iterInv_iff_candIter hs).1 hit).reject rfl
      (toNat_idx_succ hlt hchunk.clen_le) rfl rfl rfl)

end Sys2Proof.Machine

open Sys2Proof.Machine

/-- Settles O41: each effect of a step adds no more than its position allows. A report is never sent at position 0 of a
full chunk, nor at two neighbouring positions. -/
theorem stepKeepsTheIterationBounds : Obligations.StepKeepsTheIterationBounds :=
  fun _ _ hinv hslow hit h => (step_effect h).iterInv hinv hslow hit

end

section
/-! SUPPORT. The way back from an effect to the step (R81): in the states R33 admits an effect is what the step
answers, and a step has one unless the response breaks the port contract (R54). With it O29 and O30. -/

namespace Sys2Proof.Machine

variable {s t : State}

/-! ## What the step sees -/

theorem see_of_reset (hr : s.input.rst = true) : see s = .word ⟨.rst, [0x01]⟩ := by
  simp only [see, hr, if_true]

theorem see_of_response {data : List Byte} (hr : s.input.rst = false) (hd : s.input.resp = some data) :
    see s = seeResponse s data := by
  simp only [see, hr, hd, Bool.false_eq_true, if_false]

theorem seeResponse_poll {data : List Byte} {n : Count} (hs : s.st = .poll) (ho : s.out = .req n)
    (hn : data.length ≤ n.toNat) : seeResponse s data = .word ⟨.at .poll, encodeResp data⟩ := by
  simp only [seeResponse, ho, hs, if_neg hn.not_gt]

theorem seeResponse_pad {data : List Byte} {n : Count} (hs : s.st = .pad) (ho : s.out = .req n)
    (hn : data.length ≤ n.toNat) : seeResponse s data = .word ⟨.at .pad, encodeResp data⟩ := by
  simp only [seeResponse, ho, hs, if_neg hn.not_gt]

theorem seeRegisters_fast {w : List Byte} (hs : s.st = .fast) (hw : s.chunk.seq s.clen = .ok w) :
    seeRegisters s = .word ⟨.at .fast, w⟩ := by
  simp only [seeRegisters, hs, hw, seenRead]

theorem seeRegisters_cand {w : List Byte} (hs : s.st = .cand) (hw : s.cand.seq s.candLen = .ok w) :
    seeRegisters s = .word ⟨.at .cand, w⟩ := by
  simp only [seeRegisters, hs, hw, seenRead]

theorem seeRegisters_scanEnd (hs : s.st = .scan) (hi : s.idx = s.clen) :
    seeRegisters s = .word ⟨.at .scan, []⟩ := by
  simp only [seeRegisters, hs, State.scanDone, hi, decide_true, if_true]

theorem seeRegisters_scan {b : Byte} (hs : s.st = .scan) (hi : s.idx ≠ s.clen)
    (hb : s.chunk.read s.clen s.idx.toNat = .ok b) : seeRegisters s = .word ⟨.at .scan, [b]⟩ := by
  simp only [seeRegisters, hs, State.scanDone, hi, decide_false, Bool.false_eq_true, if_false, Buffer.slice, hb,
    seenRead]

/-! ## What the words of FAST, SCAN and CAND decode to -/

theorem decodeF11_eq {accept reject : Instr} {w : List Byte} (h : w.length ≤ Config.frameLen) :
    decodeF11 accept reject w = .ok (if frameOK w then accept else reject) := by
  rw [decodeF11, if_neg h.not_gt]
  split <;> rfl

theorem decode_scan_byte (b : Byte) :
    decode ⟨.at .scan, [b]⟩ = .ok (if b = 0x02 then .scanHit else .scanSkip) := by
  simp only [decode, decodeScan]
  split <;> rfl

/-- A whole sequence is a word of F11 (R83). -/
theorem Buffer.length_le_of_seq {b : Buffer} {len : Count} {w : List Byte} (h : b.seq len = .ok w) :
    w.length ≤ Config.frameLen := by
  obtain ⟨hlen, -⟩ := (b.seq_eq_ok len w).1 h
  exact hlen.trans_le (b.seq_len_le len w h)

/-! ## Each operation completes on its row -/

@[simp] theorem onRow_true (k : Out) : onRow true k = k := rfl
@[simp] theorem withRead_ok {α : Type} (a : α) (k : α → Out) : withRead (.ok a) k = k a := rfl

theorem execPollEmpty_eq_next (hs : s.st = .poll) (ho : s.out = .req 11#4) :
    execPollEmpty s = .next (s.tick.respond []).enterPoll := by
  simp only [execPollEmpty, State.polling, hs, ho, decide_true, Bool.and_self, onRow_true]

theorem execPollCapture_eq_next {data : List Byte} (hs : s.st = .poll) (ho : s.out = .req 11#4)
    (h1 : 1 ≤ data.length) (h11 : data.length ≤ 11) :
    execPollCapture data s = .next { s.tick.respond data with
      chunk := s.chunk.write 0 data, clen := Count.of data.length, st := .fast } := by
  simp only [execPollCapture, State.polling, hs, ho, h1, h11, decide_true, Bool.and_self, onRow_true]

theorem execPadFill_eq_next {data : List Byte} (hs : s.st = .pad) (ho : s.out = .req s.need)
    (hn : data.length ≤ s.need.toNat) :
    execPadFill data s = .next { s.tick.respond data with
      cand := s.cand.write s.candLen.toNat data
      candLen := s.candLen + Count.of data.length
      st := .cand } := by
  simp only [execPadFill, State.padding, hs, ho, hn, decide_true, Bool.and_self, onRow_true]

theorem execFastAccept_eq_next {w : List Byte} (hs : s.st = .fast) (hw : s.chunk.seq s.clen = .ok w)
    (hf : frameOK w = true) : execFastAccept s = .next (s.tick.sinkSend (payload w)).enterPoll := by
  simp only [execFastAccept, hs, hw, hf, decide_true, withRead_ok, onRow_true]

theorem execFastReject_eq_next {w : List Byte} (hs : s.st = .fast) (hw : s.chunk.seq s.clen = .ok w)
    (hf : frameOK w = false) :
    execFastReject s = .next { s.tick.trace .raw w with hit := false, idx := 0, st := .scan } := by
  simp only [execFastReject, hs, hw, hf, decide_true, Bool.not_false, withRead_ok, onRow_true]

theorem execScanEnd_eq_next (hs : s.st = .scan) (hi : s.idx = s.clen) :
    execScanEnd s = .next s.tick.enterPoll := by
  simp only [execScanEnd, State.scanDone, hs, hi, decide_true, Bool.and_self, onRow_true]

theorem execScanSkip_eq_next {b : Byte} (hs : s.st = .scan) (hi : s.idx ≠ s.clen)
    (hb : s.chunk.read s.clen s.idx.toNat = .ok b) (hx : b ≠ 0x02) :
    execScanSkip s = .next { s.tick with idx := s.idx + 1 } := by
  simp only [execScanSkip, State.scanDone, isStx, hs, hi, hb, beq_false_of_ne hx, decide_true, decide_false,
    Bool.not_false, Bool.and_self, withRead_ok, onRow_true]

theorem execScanHit_eq_next {w : List Byte} (hs : s.st = .scan) (hi : s.idx ≠ s.clen)
    (hb : s.chunk.read s.clen s.idx.toNat = .ok 0x02)
    (hw : s.chunk.slice s.clen s.idx.toNat (s.clen - s.idx).toNat = .ok w) :
    execScanHit s = .next (s.hitState w) := by
  simp only [execScanHit, State.scanDone, isStx, hs, hi, hb, hw, beq_self_eq_true, decide_true, decide_false,
    Bool.not_false, Bool.and_self, withRead_ok, onRow_true, State.hitState]

theorem State.sentState_stopsAtHit (s : State) (w : List Byte) :
    (s.sentState w).stopsAtHit = decide (s.scanMode = .first) := Bool.and_true _

/-- R124: what CAND_ACCEPT leaves, in either mode. -/
theorem execCandAccept_eq_next {w : List Byte} (hs : s.st = .cand) (hw : s.cand.seq s.candLen = .ok w)
    (hf : frameOK w = true) :
    execCandAccept s =
      if s.scanMode = .first then .next (s.sentState w).enterPoll
      else .next { s.sentState w with idx := s.idx + 1, st := .scan } := by
  simp only [execCandAccept, hs, hw, hf, decide_true, withRead_ok, onRow_true]
  change (if (s.sentState w).stopsAtHit = true then _ else _) = _
  simp only [State.sentState_stopsAtHit, decide_eq_true_eq]
  rfl

theorem execCandReject_eq_next {w : List Byte} (hs : s.st = .cand) (hw : s.cand.seq s.candLen = .ok w)
    (hf : frameOK w = false) :
    execCandReject s = .next { s.tick.trace .cand w with idx := s.idx + 1, st := .scan } := by
  simp only [execCandReject, hs, hw, hf, decide_true, Bool.not_false, withRead_ok, onRow_true]

/-! ## An effect is what the step answers -/

theorem step_of_word {w : OpWord} {i : Instr} (hw : see s = .word w) (hi : decode w = .ok i)
    (he : exec i s = .next t) : step s = .next t := (step_of_see_word hw hi).trans he

/-- What the step answers in FAST or CAND, from the F11 word it sees. -/
theorem step_of_f11 {c : Ctrl} {accept reject i : Instr} {w : List Byte} (hw : see s = .word ⟨.at c, w⟩)
    (hc : decode ⟨.at c, w⟩ = decodeF11 accept reject w) (hl : w.length ≤ Config.frameLen)
    (hi : (if frameOK w = true then accept else reject) = i) (he : exec i s = .next t) : step s = .next t :=
  step_of_word hw (hc.trans ((decodeF11_eq hl).trans (congrArg _ hi))) he

/-- In the states R33 admits an effect is what the step answers. (Of R33 only the bound on NEED matters: a pad response
of 11 bytes is no word of PAD.) -/
theorem StepEffect.step_eq (h : StepEffect s t) (hinv : s.Inv) : step s = .next t := by
  cases h with
  | reset hr => exact step_of_word (i := .reset) (see_of_reset hr) rfl rfl
  | wait hr hd hs => exact step_of_see_wait ((see_of_no_response hr hd).trans (seeRegisters_eq_wait hs))
  | pollEmpty hr hd hs ho =>
    have hsee := (see_of_response hr hd).trans (seeResponse_poll hs ho (Nat.zero_le _))
    exact step_of_word (i := .pollEmpty) hsee rfl (execPollEmpty_eq_next hs ho)
  | pollCapture hr data hd hs ho h1 h11 =>
    have hsee := (see_of_response hr hd).trans (seeResponse_poll hs ho h11)
    have hdec := decode_poll h11
    rw [if_neg (List.ne_nil_of_length_pos h1)] at hdec
    exact step_of_word hsee hdec (execPollCapture_eq_next hs ho h1 h11)
  | padFill hr data hd hs ho hn =>
    have hsee := (see_of_response hr hd).trans (seeResponse_pad hs ho hn)
    obtain ⟨-, -, h10, -⟩ := (State.inv_iff_padInv hs).1 hinv
    exact step_of_word hsee (decode_pad (hn.trans h10)) (execPadFill_eq_next hs ho hn)
  | fastAccept hr hd hs w hw hf =>
    have hsee := (see_of_no_response hr hd).trans (seeRegisters_fast hs hw)
    exact step_of_f11 hsee rfl (Buffer.length_le_of_seq hw) (if_pos hf) (execFastAccept_eq_next hs hw hf)
  | fastReject hr hd hs w hw hf =>
    have hsee := (see_of_no_response hr hd).trans (seeRegisters_fast hs hw)
    exact step_of_f11 hsee rfl (Buffer.length_le_of_seq hw) (if_neg (by simp [hf]))
      (execFastReject_eq_next hs hw hf)
  | scanEnd hr hd hs hi =>
    have hsee := (see_of_no_response hr hd).trans (seeRegisters_scanEnd hs hi)
    exact step_of_word (i := .scanEnd) hsee rfl (execScanEnd_eq_next hs hi)
  | scanSkip hr hd hs hi b hb hx =>
    have hsee := (see_of_no_response hr hd).trans (seeRegisters_scan hs hi hb)
    have hdec := decode_scan_byte b
    rw [if_neg hx] at hdec
    exact step_of_word hsee hdec (execScanSkip_eq_next hs hi hb hx)
  | scanHit hr hd hs hi hb w hw =>
    have hsee := (see_of_no_response hr hd).trans (seeRegisters_scan hs hi hb)
    exact step_of_word (i := .scanHit) hsee rfl (execScanHit_eq_next hs hi hb hw)
  | candAcceptFirst hr hd hs w hw hf hm =>
    have hsee := (see_of_no_response hr hd).trans (seeRegisters_cand hs hw)
    exact step_of_f11 hsee rfl (Buffer.length_le_of_seq hw) (if_pos hf)
      ((execCandAccept_eq_next hs hw hf).trans (if_pos hm))
  | candAcceptAll hr hd hs w hw hf hm =>
    have hsee := (see_of_no_response hr hd).trans (seeRegisters_cand hs hw)
    exact step_of_f11 hsee rfl (Buffer.length_le_of_seq hw) (if_pos hf)
      ((execCandAccept_eq_next hs hw hf).trans (if_neg (by simp [hm])))
  | candReject hr hd hs w hw hf =>
    have hsee := (see_of_no_response hr hd).trans (seeRegisters_cand hs hw)
    exact step_of_f11 hsee rfl (Buffer.length_le_of_seq hw) (if_neg (by simp [hf]))
      (execCandReject_eq_next hs hw hf)

/-! ## Every step from a state R33 admits has an effect, or its response breaks the port contract -/

/-- R54: the response of this step has no move, and the name it is refused under. -/
inductive State.Breach (s : State) : Refusal → Prop
  | noRequest (hr : s.input.rst = false) (data : List Byte) (hd : s.input.resp = some data)
    (ho : s.out = .none) : Breach s .noRequestOutstanding
  | tooLong (hr : s.input.rst = false) (data : List Byte) (hd : s.input.resp = some data) (n : Count)
    (ho : s.out = .req n) (hn : n.toNat < data.length) : Breach s .responseTooLong

theorem State.Breach.step_eq {r : Refusal} (h : s.Breach r) : step s = .refused r := by
  cases h with
  | noRequest hr data hd ho => simp only [step, see_of_response hr hd, seeResponse, ho]
  | tooLong hr data hd n ho hn => simp only [step, see_of_response hr hd, seeResponse, ho, hn, if_true]

theorem State.Breach.inputOK_eq_false {r : Refusal} (h : s.Breach r) : s.inputOK = false := by
  cases h with
  | noRequest hr data hd ho => simp only [State.inputOK, hr, hd, ho, Bool.or_self]
  | tooLong hr data hd n ho hn =>
    simp only [State.inputOK, hr, hd, ho, decide_eq_false hn.not_ge, Bool.or_self]

/-- A response taken in a state R33 admits has an effect or breaks the contract. -/
theorem exists_effect_or_breach_of_response {data : List Byte} (hinv : s.Inv) (hr : s.input.rst = false)
    (hd : s.input.resp = some data) : (∃ t, StepEffect s t) ∨ ∃ r, s.Breach r := by
  cases ho : s.out with
  | none => exact .inr ⟨_, .noRequest hr data hd ho⟩
  | req n =>
    rcases Nat.lt_or_ge n.toNat data.length with hn | hn
    · exact .inr ⟨_, .tooLong hr data hd n ho hn⟩
    have hidle : s.out ≠ .none := by simp [ho]
    left
    cases hs : s.st with
    | poll =>
      have hpoll : s.out = .req 11#4 := (State.inv_iff_pollInv hs).1 hinv
      obtain rfl : n = 11#4 := Port.req.inj (ho.symm.trans hpoll)
      cases data with
      | nil => exact ⟨_, .pollEmpty hr hd hs ho⟩
      | cons b bs => exact ⟨_, .pollCapture hr _ hd hs ho (Nat.succ_pos _) hn⟩
    | pad =>
      have hpad := ((State.inv_iff_padInv hs).1 hinv).1
      obtain rfl : n = s.need := Port.req.inj (ho.symm.trans hpad)
      exact ⟨_, .padFill hr data hd hs ho hn⟩
    | fast => exact absurd ((State.inv_iff_fastInv hs).1 hinv).1 hidle
    | scan => exact absurd ((State.inv_iff_scanInv hs).1 hinv).1 hidle
    | cand => exact absurd ((State.inv_iff_candInv hs).1 hinv).1 hidle

/-- R25, R81: with no reset and no response a step of a state R33 admits finds each value it reads. -/
theorem exists_effect_of_no_response (hinv : s.Inv) (hr : s.input.rst = false) (hd : s.input.resp = none) :
    ∃ t, StepEffect s t := by
  cases hs : s.st with
  | poll => exact ⟨_, .wait hr hd (.inl hs)⟩
  | pad => exact ⟨_, .wait hr hd (.inr hs)⟩
  | fast =>
    obtain ⟨-, hchunk⟩ := (State.inv_iff_fastInv hs).1 hinv
    obtain ⟨w, hw⟩ := hchunk.exists_seq
    cases hf : frameOK w
    · exact ⟨_, .fastReject hr hd hs w hw hf⟩
    · exact ⟨_, .fastAccept hr hd hs w hw hf⟩
  | scan =>
    have hscan := (State.inv_iff_scanInv hs).1 hinv
    obtain ⟨-, hchunk, hle⟩ := id hscan
    obtain ⟨c, hc⟩ := hchunk.exists_seq
    by_cases hi : s.idx = s.clen
    · exact ⟨_, .scanEnd hr hd hs hi⟩
    obtain ⟨b, -, hb⟩ := Buffer.read_of_seq _ _ _ _ hc (hscan.idx_lt hi)
    by_cases hx : b = 0x02
    · subst hx
      have hw := Buffer.slice_of_seq _ _ _ s.idx.toNat hc
      rw [← toNat_sub_count hle] at hw
      exact ⟨_, .scanHit hr hd hs hi hb _ hw⟩
    · exact ⟨_, .scanSkip hr hd hs hi b hb hx⟩
  | cand =>
    obtain ⟨-, hcand⟩ := (State.inv_iff_candInv hs).1 hinv
    obtain ⟨w, hw⟩ := hcand.exists_seq
    cases hf : frameOK w
    · exact ⟨_, .candReject hr hd hs w hw hf⟩
    · cases hm : s.scanMode
      · exact ⟨_, .candAcceptAll hr hd hs w hw hf hm⟩
      · exact ⟨_, .candAcceptFirst hr hd hs w hw hf hm⟩

theorem exists_effect_or_breach (hinv : s.Inv) : (∃ t, StepEffect s t) ∨ ∃ r, s.Breach r := by
  cases hr : s.input.rst with
  | true => exact .inl ⟨_, .reset hr⟩
  | false =>
    cases hd : s.input.resp with
    | some data => exact exists_effect_or_breach_of_response hinv hr hd
    | none => exact .inl (exists_effect_of_no_response hinv hr hd)

end Sys2Proof.Machine

open Sys2Proof.Machine

/-- Settles O29: the step has an effect, or refuses a response that breaks the port contract; neither is a fault. -/
theorem noStepRaisesTheModelFault : Obligations.NoStepRaisesTheModelFault := by
  intro s f hinv hfault
  rcases exists_effect_or_breach hinv with ⟨t, ht⟩ | ⟨r, hr⟩
  · exact nomatch (ht.step_eq hinv).symm.trans hfault
  · exact nomatch hr.step_eq.symm.trans hfault

/-- Settles O30: with a contract-keeping input the step has an effect. A wait is one of them, a next state in which only
the idle input has passed (assumption 1). -/
theorem contractKeepingStepMoves : Obligations.ContractKeepingStepMoves := by
  intro s hinv hok
  rcases exists_effect_or_breach hinv with ⟨t, ht⟩ | ⟨r, hr⟩
  · exact ⟨t, ht.step_eq hinv⟩
  · exact absurd (hok.symm.trans hr.inputOK_eq_false) (by decide)

end

section
/-! SUPPORT. States that agree on what is live step alike (R25, R32, R130): O49, and over any number of steps O50. -/

namespace Sys2Proof.Machine

variable {s s' t t' : State}

/-! ## Buffers with the same live elements -/

theorem Buffer.read_congr {b c : Buffer} {len : Count} {w : List Byte} (hb : b.seq len = .ok w)
    (hc : c.seq len = .ok w) (i : Nat) : b.read len i = c.read len i := by
  by_cases hi : i < len.toNat
  · obtain ⟨x, hx, hbx⟩ := Buffer.read_of_seq _ _ _ _ hb hi
    obtain ⟨y, hy, hcy⟩ := Buffer.read_of_seq _ _ _ _ hc hi
    rw [hbx, hcy, Option.some.inj (hx.symm.trans hy)]
  · simp only [Buffer.read, if_neg hi]

theorem Buffer.slice_congr {b c : Buffer} {len : Count} {w : List Byte} (hb : b.seq len = .ok w)
    (hc : c.seq len = .ok w) (n : Nat) : ∀ lo, b.slice len lo n = c.slice len lo n := by
  induction n with
  | zero => exact fun _ => rfl
  | succ n ih => intro lo; simp only [Buffer.slice, Buffer.read_congr hb hc, ih]

/-! ## Agreement as equal surroundings and equal live registers -/

/-- The state with every register but `OUT` at its reset value: what is left is what an operation does to the ports, the
inputs, the log, the draws and the parameters. -/
def State.blank (s : State) : State :=
  { s with
    st := .poll
    chunk := Buffer.empty
    clen := 0
    idx := 0
    cand := Buffer.empty
    candLen := 0
    need := 0
    hit := false }

theorem State.Agree.st_eq (h : s.Agree t) : s.st = t.st := by
  obtain ⟨hst, -⟩ := h
  exact hst

theorem State.Agree.blank_eq (h : s.Agree t) : s.blank = t.blank := by
  obtain ⟨-, hout, hin, hlog, hinf, hm, htr, -⟩ := h
  simp only [State.blank, hout, hin, hlog, hinf, hm, htr]

theorem State.Agree.live_chunk (h : s.Agree t) (hs : s.st ≠ .poll) :
    s.clen = t.clen ∧ s.chunk.seq s.clen = t.chunk.seq t.clen := by
  obtain ⟨-, -, -, -, -, -, -, hchunk, -⟩ := h
  exact hchunk hs

theorem State.Agree.live_scan (h : s.Agree t) (hs : s.st = .scan ∨ s.st = .pad ∨ s.st = .cand) :
    s.idx = t.idx ∧ s.hit = t.hit := by
  obtain ⟨-, -, -, -, -, -, -, -, hidx, -⟩ := h
  exact hidx hs

theorem State.Agree.live_need (h : s.Agree t) (hs : s.st = .pad) : s.need = t.need := by
  obtain ⟨-, -, -, -, -, -, -, -, -, hneed, -⟩ := h
  exact hneed hs

theorem State.Agree.live_cand (h : s.Agree t) (hs : s.st = .pad ∨ s.st = .cand) :
    s.candLen = t.candLen ∧ s.cand.seq s.candLen = t.cand.seq t.candLen := by
  obtain ⟨-, -, -, -, -, -, -, -, -, -, hcand⟩ := h
  exact hcand hs

theorem State.agree_of_blank (hst : s.st = t.st) (hb : s.blank = t.blank)
    (hchunk : s.st ≠ .poll → s.clen = t.clen ∧ s.chunk.seq s.clen = t.chunk.seq t.clen)
    (hidx : s.st = .scan ∨ s.st = .pad ∨ s.st = .cand → s.idx = t.idx ∧ s.hit = t.hit)
    (hneed : s.st = .pad → s.need = t.need)
    (hcand : s.st = .pad ∨ s.st = .cand → s.candLen = t.candLen ∧ s.cand.seq s.candLen = t.cand.seq t.candLen) :
    s.Agree t :=
  ⟨hst, (congrArg State.out hb :), (congrArg State.inputs hb :), (congrArg State.log hb :), (congrArg State.inflight hb :),
    (congrArg State.scanMode hb :), (congrArg State.traceEn hb :), hchunk, hidx, hneed, hcand⟩

/-- R32: in POLL no register but `st` and `OUT` is live. -/
theorem State.agree_of_poll (hs : s.st = .poll) (ht : t.st = .poll) (hb : s.blank = t.blank) : s.Agree t :=
  State.agree_of_blank (hs.trans ht.symm) hb (by simp [hs]) (by simp [hs]) (by simp [hs]) (by simp [hs])

theorem State.agree_of_fast (hs : s.st = .fast) (ht : t.st = .fast) (hb : s.blank = t.blank)
    (hchunk : s.clen = t.clen ∧ s.chunk.seq s.clen = t.chunk.seq t.clen) : s.Agree t :=
  State.agree_of_blank (hs.trans ht.symm) hb (fun _ => hchunk) (by simp [hs]) (by simp [hs]) (by simp [hs])

/-- R130: in SCAN the candidate and its pad bytes are dead. -/
theorem State.agree_of_scan (hs : s.st = .scan) (ht : t.st = .scan) (hb : s.blank = t.blank)
    (hchunk : s.clen = t.clen ∧ s.chunk.seq s.clen = t.chunk.seq t.clen)
    (hidx : s.idx = t.idx ∧ s.hit = t.hit) : s.Agree t :=
  State.agree_of_blank (hs.trans ht.symm) hb (fun _ => hchunk) (fun _ => hidx) (by simp [hs]) (by simp [hs])

theorem State.agree_of_cand (hs : s.st = .cand) (ht : t.st = .cand) (hb : s.blank = t.blank)
    (hchunk : s.clen = t.clen ∧ s.chunk.seq s.clen = t.chunk.seq t.clen)
    (hidx : s.idx = t.idx ∧ s.hit = t.hit)
    (hcand : s.candLen = t.candLen ∧ s.cand.seq s.candLen = t.cand.seq t.candLen) : s.Agree t :=
  State.agree_of_blank (hs.trans ht.symm) hb (fun _ => hchunk) (fun _ => hidx) (by simp [hs]) (fun _ => hcand)

/-! ## The operations that move live bytes -/

/-- R103: the captured chunks agree, whatever the buffers held. -/
theorem Buffer.seq_write_zero_congr (b c : Buffer) {w : List Byte} (h : w.length ≤ Config.frameLen) :
    (b.write 0 w).seq (Count.of w.length) = (c.write 0 w).seq (Count.of w.length) :=
  (Buffer.seq_write_zero b w h).trans (Buffer.seq_write_zero c w h).symm

/-- R123: the filled candidates agree where the candidates did. -/
theorem State.Agree.fill {data : List Byte} (ha : s.Agree t) (hs : s.st = .pad) (hinv : s.PadInv)
    (hn : data.length ≤ s.need.toNat) :
    s.candLen + Count.of data.length = t.candLen + Count.of data.length ∧
      (s.cand.write s.candLen.toNat data).seq (s.candLen + Count.of data.length) =
        (t.cand.write t.candLen.toNat data).seq (t.candLen + Count.of data.length) := by
  obtain ⟨-, hn1, -, hcand, -, hneed⟩ := hinv
  obtain ⟨hlen, hseq⟩ := ha.live_cand (.inl hs)
  obtain ⟨u, hu⟩ := hcand.exists_seq
  have hsum : s.candLen.toNat + data.length ≤ Config.frameLen := by omega
  refine ⟨congrArg (· + _) hlen, ?_⟩
  rw [Buffer.seq_write_append _ _ _ _ hu hsum,
    Buffer.seq_write_append _ _ _ _ (hseq.symm.trans hu) (hlen ▸ hsum)]

/-- R122: candidates that agree and ask for the same pad are requested it alike. -/
theorem State.requestPad_agree (hb : s.blank = t.blank) (hneed : s.need = t.need)
    (hchunk : s.clen = t.clen ∧ s.chunk.seq s.clen = t.chunk.seq t.clen)
    (hidx : s.idx = t.idx ∧ s.hit = t.hit)
    (hcand : s.candLen = t.candLen ∧ s.cand.seq s.candLen = t.cand.seq t.candLen) :
    s.requestPad.Agree t.requestPad := by
  unfold State.requestPad
  rw [← hneed]
  split
  · exact State.agree_of_blank rfl (congrArg (·.request s.need) hb :) (fun _ => hchunk) (fun _ => hidx)
      (fun _ => hneed) (fun _ => hcand)
  · exact State.agree_of_cand rfl rfl hb hchunk hidx hcand

/-- R122: from one slice of the chunk SCAN_HIT forms one candidate, with one pad request. -/
theorem State.Agree.hitState {w : List Byte} (ha : s.Agree t) (hs : s.st = .scan) (hinv : s.ScanInv)
    (hw : s.chunk.slice s.clen s.idx.toNat (s.clen - s.idx).toNat = .ok w) :
    (s.hitState w).Agree (t.hitState w) := by
  obtain ⟨-, ⟨-, h11, -⟩, hle⟩ := hinv
  have hchunk := ha.live_chunk (by simp [hs])
  have hidx := ha.live_scan (.inl hs)
  have hlen : s.clen - s.idx = t.clen - t.idx := congrArg₂ (· - ·) hchunk.1 hidx.1
  have hseq : (t.cand.write 0 w).seq (s.clen - s.idx) = (s.cand.write 0 w).seq (s.clen - s.idx) :=
    (seq_of_hit _ _ hle h11 hw).trans (seq_of_hit _ _ hle h11 hw).symm
  exact State.requestPad_agree (s := s.formCand w) (t := t.formCand w) (congrArg State.tick ha.blank_eq :)
    (congrArg₂ padCount hchunk.1 hidx.1) hchunk hidx ⟨hlen, hseq.symm.trans (hlen ▸ rfl)⟩

/-- R121, R122: what SCAN reads of the chunk agrees. -/
theorem State.Agree.scan_reads (ha : s.Agree t) (hs : s.st = .scan) (hinv : s.ScanInv) :
    s.chunk.read s.clen s.idx.toNat = t.chunk.read t.clen t.idx.toNat ∧
      s.chunk.slice s.clen s.idx.toNat (s.clen - s.idx).toNat =
        t.chunk.slice t.clen t.idx.toNat (t.clen - t.idx).toNat := by
  obtain ⟨-, hchunk, -⟩ := hinv
  obtain ⟨c, hc⟩ := hchunk.exists_seq
  obtain ⟨hlen, hseq⟩ := ha.live_chunk (by simp [hs])
  obtain ⟨hidx, -⟩ := ha.live_scan (.inl hs)
  have hc' : t.chunk.seq s.clen = .ok c := by rw [hlen, ← hseq, hc]
  rw [← hlen, ← hidx]
  exact ⟨Buffer.read_congr hc hc' _, Buffer.slice_congr hc hc' _ _⟩

/-! ## Every effect in one state has its like in the other -/

theorem StepEffect.transfer (h : StepEffect s s') (hinv : s.Inv) (ha : s.Agree t) :
    ∃ t', StepEffect t t' ∧ s'.Agree t' := by
  have hb := ha.blank_eq
  have hin : t.input = s.input := (congrArg State.input hb.symm :)
  have hst := ha.st_eq.symm
  have hout : t.out = s.out := (congrArg State.out ha.blank_eq.symm :)
  have hmode : t.scanMode = s.scanMode := (congrArg State.scanMode hb.symm :)
  cases h with
  | reset hr =>
    exact ⟨_, .reset (hin ▸ hr), State.agree_of_poll rfl rfl
      (congrArg (fun u : State => u.tick.abandon.clear.enterPoll) hb :)⟩
  | wait hr hd hs =>
    exact ⟨_, .wait (hin ▸ hr) (hin ▸ hd) (hst ▸ hs), State.agree_of_blank ha.st_eq (congrArg State.tick hb :)
      ha.live_chunk ha.live_scan ha.live_need ha.live_cand⟩
  | pollEmpty hr hd hs ho =>
    exact ⟨_, .pollEmpty (hin ▸ hr) (hin ▸ hd) (hst.trans hs) (hout.trans ho), State.agree_of_poll rfl rfl
      (congrArg (fun u : State => (u.tick.respond []).enterPoll) hb :)⟩
  | pollCapture hr data hd hs ho h1 h11 =>
    exact ⟨_, .pollCapture (hin ▸ hr) data (hin ▸ hd) (hst.trans hs) (hout.trans ho) h1 h11,
      State.agree_of_fast rfl rfl (congrArg (fun u : State => u.tick.respond data) hb :)
        ⟨rfl, Buffer.seq_write_zero_congr _ _ h11⟩⟩
  | padFill hr data hd hs ho hn =>
    have hneed := ha.live_need hs
    have ho' : t.out = .req t.need := by rw [hout, ho, hneed]
    exact ⟨_, .padFill (hin ▸ hr) data (hin ▸ hd) (hst.trans hs) ho' (hneed ▸ hn),
      State.agree_of_cand rfl rfl (congrArg (fun u : State => u.tick.respond data) hb :)
        (ha.live_chunk (by simp [hs])) (ha.live_scan (.inr (.inl hs)))
        (ha.fill hs ((State.inv_iff_padInv hs).1 hinv) hn)⟩
  | fastAccept hr hd hs w hw hf =>
    have hchunk := ha.live_chunk (by simp [hs])
    exact ⟨_, .fastAccept (hin ▸ hr) (hin ▸ hd) (hst.trans hs) w (hchunk.2 ▸ hw) hf,
      State.agree_of_poll rfl rfl (congrArg (fun u : State => (u.tick.sinkSend (payload w)).enterPoll) hb :)⟩
  | fastReject hr hd hs w hw hf =>
    have hchunk := ha.live_chunk (by simp [hs])
    exact ⟨_, .fastReject (hin ▸ hr) (hin ▸ hd) (hst.trans hs) w (hchunk.2 ▸ hw) hf,
      State.agree_of_scan rfl rfl (congrArg (fun u : State => u.tick.trace .raw w) hb :) hchunk ⟨rfl, rfl⟩⟩
  | scanEnd hr hd hs hi =>
    have hchunk := ha.live_chunk (by simp [hs])
    have hidx := ha.live_scan (.inl hs)
    exact ⟨_, .scanEnd (hin ▸ hr) (hin ▸ hd) (hst.trans hs) (by rw [← hidx.1, ← hchunk.1, hi]),
      State.agree_of_poll rfl rfl (congrArg (fun u : State => u.tick.enterPoll) hb :)⟩
  | scanSkip hr hd hs hi b hread hx =>
    have hscan := (State.inv_iff_scanInv hs).1 hinv
    have hchunk := ha.live_chunk (by simp [hs])
    have hidx := ha.live_scan (.inl hs)
    exact ⟨_, .scanSkip (hin ▸ hr) (hin ▸ hd) (hst.trans hs) (hidx.1 ▸ hchunk.1 ▸ hi) b
        ((ha.scan_reads hs hscan).1 ▸ hread) hx,
      State.agree_of_scan hs (hst.trans hs) (congrArg State.tick hb :) hchunk
        ⟨congrArg (· + 1) hidx.1, hidx.2⟩⟩
  | scanHit hr hd hs hi hread w hw =>
    have hscan := (State.inv_iff_scanInv hs).1 hinv
    have hchunk := ha.live_chunk (by simp [hs])
    have hidx := ha.live_scan (.inl hs)
    obtain ⟨hread', hslice⟩ := ha.scan_reads hs hscan
    exact ⟨_, .scanHit (hin ▸ hr) (hin ▸ hd) (hst.trans hs) (hidx.1 ▸ hchunk.1 ▸ hi) (hread' ▸ hread) w
      (hslice ▸ hw), ha.hitState hs hscan hw⟩
  | candAcceptFirst hr hd hs w hw hf hm =>
    have hcand := ha.live_cand (.inr hs)
    exact ⟨_, .candAcceptFirst (hin ▸ hr) (hin ▸ hd) (hst.trans hs) w (hcand.2 ▸ hw) hf (hmode.trans hm),
      State.agree_of_poll rfl rfl
        (congrArg (fun u : State => ((u.tick.trace .cand w).sinkSend (payload w)).enterPoll) hb :)⟩
  | candAcceptAll hr hd hs w hw hf hm =>
    have hcand := ha.live_cand (.inr hs)
    have hidx := ha.live_scan (.inr (.inr hs))
    exact ⟨_, .candAcceptAll (hin ▸ hr) (hin ▸ hd) (hst.trans hs) w (hcand.2 ▸ hw) hf (hmode.trans hm),
      State.agree_of_scan rfl rfl
        (congrArg (fun u : State => (u.tick.trace .cand w).sinkSend (payload w)) hb :)
        (ha.live_chunk (by simp [hs])) ⟨congrArg (· + 1) hidx.1, rfl⟩⟩
  | candReject hr hd hs w hw hf =>
    have hcand := ha.live_cand (.inr hs)
    have hidx := ha.live_scan (.inr (.inr hs))
    exact ⟨_, .candReject (hin ▸ hr) (hin ▸ hd) (hst.trans hs) w (hcand.2 ▸ hw) hf,
      State.agree_of_scan rfl rfl (congrArg (fun u : State => u.tick.trace .cand w) hb :)
        (ha.live_chunk (by simp [hs])) ⟨congrArg (· + 1) hidx.1, hidx.2⟩⟩

/-- R54: a breach is a matter of the input and the outstanding request. -/
theorem State.Breach.transfer {r : Refusal} (h : s.Breach r) (ha : s.Agree t) : t.Breach r := by
  have hin : t.input = s.input := (congrArg State.input ha.blank_eq.symm :)
  have hout : t.out = s.out := (congrArg State.out ha.blank_eq.symm :)
  cases h with
  | noRequest hr data hd ho => exact .noRequest (hin ▸ hr) data (hin ▸ hd) (hout.trans ho)
  | tooLong hr data hd n ho hn => exact .tooLong (hin ▸ hr) data (hin ▸ hd) n (hout.trans ho) hn

/-- R32: two states that agree step alike. -/
theorem step_agree (hs : s.Inv) (ht : t.Inv) (ha : s.Agree t) : AgreeOut (step s) (step t) := by
  rcases exists_effect_or_breach hs with ⟨s', hs'⟩ | ⟨r, hr⟩
  · obtain ⟨t', ht', ha'⟩ := hs'.transfer hs ha
    rw [hs'.step_eq hs, ht'.step_eq ht]
    exact ha'
  · rw [hr.step_eq, (hr.transfer ha).step_eq]
    exact rfl

/-! ## Any number of steps -/

theorem run_succ_of_next (n : Nat) (h : step s = .next s') :
    Host.Core.run core (n + 1) s = Host.Core.run core n s' := by
  have hcore : core.step s = .next s' := h
  simp only [Host.Core.run, hcore]

theorem run_succ_of_refused (n : Nat) {r : Refusal} (h : step s = .refused r) :
    Host.Core.run core (n + 1) s = .refused r := by
  have hcore : core.step s = .refused r := h
  simp only [Host.Core.run, hcore]

theorem run_agree (n : Nat) : ∀ s t : State, s.Inv → t.Inv → s.Agree t →
    AgreeOut (Host.Core.run core n s) (Host.Core.run core n t) := by
  induction n with
  | zero => exact fun _ _ _ _ ha => ha
  | succ n ih =>
    intro s t hs ht ha
    rcases exists_effect_or_breach hs with ⟨s', hs'⟩ | ⟨r, hr⟩
    · obtain ⟨t', ht', ha'⟩ := hs'.transfer hs ha
      rw [run_succ_of_next n (hs'.step_eq hs), run_succ_of_next n (ht'.step_eq ht)]
      exact ih s' t' (hs'.inv hs) (ht'.inv ht) ha'
    · rw [run_succ_of_refused n hr.step_eq, run_succ_of_refused n (hr.transfer ha).step_eq]
      exact rfl

end Sys2Proof.Machine

open Sys2Proof.Machine

/-- Settles O49: whatever the first state's step has done, or the breach it is refused for, the second's has its like. -/
theorem deadRegistersNeverMatter : Obligations.DeadRegistersNeverMatter :=
  fun _ _ hs ht ha => step_agree hs ht ha

/-- Settles O50: in POLL equal surroundings are agreement, which every step keeps; by induction on the number of steps. -/
theorem nothingIsCarriedIntoAnIteration : Obligations.NothingIsCarriedIntoAnIteration := by
  intro n s t hs ht hps hpt hout hin hlog hinf hmode htrace
  have hblank : s.blank = t.blank := by simp only [State.blank, hout, hin, hlog, hinf, hmode, htrace]
  exact run_agree n s t hs ht (State.agree_of_poll hps hpt hblank)

end

section
/-! SUPPORT. Frames: which operations write which register, how a step extends the log, how it moves IDX; O31, O32,
O35, and O37's reset state. -/

namespace Sys2Proof.Machine

variable {s t : State}

/-! ## The log -/

/-- R35: every effect adds its events at the log's end. -/
theorem StepEffect.log_append (h : StepEffect s t) : ∃ es, t.log = s.log ++ es := by
  cases h with
  | reset => exact ⟨_, List.append_assoc ..⟩
  | wait => exact ⟨[], (List.append_nil _).symm⟩
  | pollEmpty => exact ⟨_, List.append_assoc ..⟩
  | pollCapture => exact ⟨_, rfl⟩
  | padFill => exact ⟨_, rfl⟩
  | fastAccept => exact ⟨_, List.append_assoc ..⟩
  | fastReject => exact ⟨_, rfl⟩
  | scanEnd => exact ⟨_, rfl⟩
  | scanSkip => exact ⟨[], (List.append_nil _).symm⟩
  | scanHit => exact ⟨_, State.requestPad_log _⟩
  | candAcceptFirst => exact ⟨_, (List.append_assoc ..).trans (List.append_assoc ..)⟩
  | candAcceptAll => exact ⟨_, List.append_assoc ..⟩
  | candReject => exact ⟨_, rfl⟩

/-- R176: with reset asserted the step is the reset, whatever else is present: every other effect is of a step without
reset. -/
theorem StepEffect.eq_reset (h : StepEffect s t) (hr : s.input.rst = true) :
    t = s.tick.abandon.clear.enterPoll := by
  cases h
  case reset => rfl
  all_goals simp_all

/-! ## IDX. An effect that starts in another control state, or is the reset's, is ruled out by `simp_all`. -/

/-- R105: the slow path begins at IDX = 0. -/
theorem StepEffect.idx_of_fast (h : StepEffect s t) (hr : s.input.rst = false) (hs : s.st = .fast)
    (ht : t.st = .scan) : t.idx = 0 := by
  cases h
  case fastReject => rfl
  case fastAccept => contradiction
  all_goals simp_all

/-- R29: outside FAST a step leaves IDX or moves it on by one, and R33 keeps it from wrapping. -/
theorem StepEffect.idx_eq_or_succ (h : StepEffect s t) (hinv : s.Inv) (hr : s.input.rst = false)
    (hs : s.st ≠ .fast) : t.idx = s.idx ∨ t.idx.toNat = s.idx.toNat + 1 := by
  cases h with
  | reset hrst => exact absurd (hr.symm.trans hrst) Bool.false_ne_true
  | wait | pollEmpty | pollCapture | padFill | scanEnd | candAcceptFirst => exact .inl rfl
  | fastAccept _ _ hf | fastReject _ _ hf => exact absurd hf hs
  | scanHit => exact .inl (State.requestPad_idx _)
  | scanSkip _ _ hscan hi =>
    have hrow := (State.inv_iff_scanInv hscan).1 hinv
    exact .inr (toNat_idx_succ (hrow.idx_lt hi) hrow.clen_le)
  | candAcceptAll _ _ hcand | candReject _ _ hcand =>
    obtain ⟨-, hchunk, hlt, -⟩ := (State.inv_iff_candInv hcand).1 hinv
    exact .inr (toNat_idx_succ hlt hchunk.clen_le)

/-- R121: a byte that is not STX is skipped. -/
theorem StepEffect.idx_of_skip {b : Byte} (h : StepEffect s t) (hinv : s.Inv) (hr : s.input.rst = false)
    (hs : s.st = .scan) (hb : s.chunk.read s.clen s.idx.toNat = .ok b) (hx : b ≠ 0x02) :
    t.idx.toNat = s.idx.toNat + 1 := by
  obtain ⟨hlt, -⟩ := (Buffer.read_eq_ok ..).1 hb
  have h11 := ((State.inv_iff_scanInv hs).1 hinv).clen_le
  cases h
  case scanSkip => exact toNat_idx_succ hlt h11
  case scanEnd hi => exact absurd (congrArg BitVec.toNat hi) hlt.ne
  case scanHit hstx _ _ => exact absurd (Except.ok.inj (hb.symm.trans hstx)) hx
  all_goals simp_all

/-- R124, R125: a candidate's check that does not end the iteration goes on at the next position. -/
theorem StepEffect.idx_of_check (h : StepEffect s t) (hinv : s.Inv) (hr : s.input.rst = false)
    (hs : s.st = .cand) (ht : t.st = .scan) : t.idx.toNat = s.idx.toNat + 1 := by
  obtain ⟨-, hchunk, hlt, -⟩ := (State.inv_iff_candInv hs).1 hinv
  have hsucc := toNat_idx_succ hlt hchunk.clen_le
  cases h
  case candAcceptAll | candReject => exact hsucc
  case candAcceptFirst => contradiction
  all_goals simp_all

end Sys2Proof.Machine

open Sys2Proof.Machine

/-- Settles O31: each operation's next state is written out, and the registers it names are the ones it changed. The
clause on the inputs speaks of the model's own list (assumption 1). -/
theorem registersWrittenOnlyByTheirOperations : Obligations.RegistersWrittenOnlyByTheirOperations := by
  intro i s t h
  cases i with
  | pollEmpty =>
    obtain ⟨-, -, rfl⟩ := execPollEmpty_next h
    simp
  | pollCapture data =>
    obtain ⟨-, -, -, -, rfl⟩ := execPollCapture_next h
    simp
  | fastAccept =>
    obtain ⟨-, w, -, -, rfl⟩ := execFastAccept_next h
    simp
  | fastReject =>
    obtain ⟨-, w, -, -, rfl⟩ := execFastReject_next h
    simp
  | scanEnd =>
    obtain ⟨-, -, rfl⟩ := execScanEnd_next h
    simp
  | scanHit =>
    obtain ⟨-, -, -, w, -, rfl⟩ := execScanHit_next h
    simp [State.hitState]
  | scanSkip =>
    obtain ⟨-, -, b, -, -, rfl⟩ := execScanSkip_next h
    simp
  | padFill data =>
    obtain ⟨-, -, -, rfl⟩ := execPadFill_next h
    simp
  | candAccept =>
    obtain ⟨-, w, -, -, ⟨-, rfl⟩ | ⟨-, rfl⟩⟩ := execCandAccept_next h <;> simp [State.sentState]
  | candReject =>
    obtain ⟨-, w, -, -, rfl⟩ := execCandReject_next h
    simp
  | reset =>
    obtain rfl := execReset_next h
    simp

/-- Settles O32: every effect appends its events, and a reset's are `Reset` and the poll request. -/
theorem logOnlyGrows : Obligations.LogOnlyGrows := by
  intro s t h
  refine ⟨(step_effect h).log_append, fun hr => ?_⟩
  rw [(step_effect h).eq_reset hr]
  simp

/-- Settles O35: one lemma a clause, from the effects; R33's `IDX < CLEN <= 11` is what keeps IDX from wrapping. -/
theorem idxAdvancesByOne : Obligations.IdxAdvancesByOne := by
  intro s t hinv h hr
  have heff := step_effect h
  exact ⟨fun hs ht => congrArg BitVec.toNat (heff.idx_of_fast hr hs ht), heff.idx_eq_or_succ hinv hr,
    fun _ hs hb hx => heff.idx_of_skip hinv hr hs hb hx, heff.idx_of_check hinv hr⟩

/-- Settles O37: POLL's rows ask for the outstanding poll request and an iteration with no events, and the other
invariants speak of other control states. -/
theorem resetMeetsTheInvariants : Obligations.ResetMeetsTheInvariants := by
  have hpoll : State.reset.st = .poll := rfl
  refine ⟨(State.inv_iff_pollInv hpoll).2 rfl, by decide, ⟨?_, ?_⟩, ?_, (State.iterInv_iff_poll hpoll).2 (by decide)⟩
  · simp [hpoll]
  · simp [hpoll]
  · simp [State.PadTailInv, hpoll]

end

section
/-! SUPPORT. The packed views of byte strings (R58): a byte of the string as 8 bits of its view. O3. -/

namespace Sys2Proof

/-- R58: the view is the number whose base-256 digits, least significant first, are the bytes from the last on. -/
theorem packBE_eq_ofDigits (w : List Byte) : packBE w = Nat.ofDigits 256 (w.reverse.map BitVec.toNat) := by
  rw [packBE, Nat.ofDigits_eq_foldr, List.foldr_map, List.foldr_reverse]
  simp only [Nat.cast_id, Nat.add_comm]

/-- The `k` low digits divided away, the bytes before the last `k` are left. -/
theorem packBE_div_pow (w : List Byte) (k : ℕ) :
    packBE w / 256 ^ k = packBE (w.take (w.length - k)) := by
  have hdigit : ∀ d ∈ w.reverse.map BitVec.toNat, d < 256 := by
    simpa using fun b _ => b.isLt
  rw [packBE_eq_ofDigits, packBE_eq_ofDigits, Nat.ofDigits_div_pow_eq_ofDigits_drop k (by decide) _ hdigit,
    ← List.map_drop, List.drop_reverse]

@[simp] theorem packBE_concat (w : List Byte) (b : Byte) : packBE (w ++ [b]) = 256 * packBE w + b.toNat :=
  List.foldl_concat ..

/-- The low 8 bits of the view are the last byte. -/
theorem ofNat_packBE_concat (w : List Byte) (b : Byte) : BitVec.ofNat 8 (packBE (w ++ [b])) = b := by
  apply BitVec.eq_of_toNat_eq
  have := b.isLt
  rw [packBE_concat, BitVec.toNat_ofNat]
  omega

/-- A byte as the low 8 bits of the view with the bytes after it divided away. -/
theorem getElem?_eq_packBE_div {w : List Byte} {i : ℕ} (hi : i < w.length) :
    w[i]? = some (BitVec.ofNat 8 (packBE w / 256 ^ (w.length - 1 - i))) := by
  have hkeep : w.length - (w.length - 1 - i) = i + 1 := by omega
  rw [packBE_div_pow, hkeep, List.take_add_one, List.getElem?_eq_getElem hi, Option.toList_some,
    ofNat_packBE_concat]

/-- The 8 bits of a view from bit `8 * k` on are its base-256 digit `k`. -/
theorem extractLsb'_ofNat_byte (x n k : ℕ) (hk : k < n) :
    (BitVec.ofNat (8 * n) x).extractLsb' (8 * k) 8 = BitVec.ofNat 8 (x / 256 ^ k) := by
  ext j hj
  have hbit : 8 * k + j < 8 * n := by omega
  have hpow : 256 ^ k = 2 ^ (8 * k) := (Nat.pow_mul 2 8 k).symm
  rw [BitVec.getElem_extractLsb', ← BitVec.getLsbD_eq_getElem hj, BitVec.getLsbD_ofNat, BitVec.getLsbD_ofNat, hpow,
    Nat.testBit_div_two_pow, Nat.add_comm j, decide_eq_true hbit, decide_eq_true hj]

/-- R58, R72: in the view of `n` bytes, byte `i` stands in bits `8 * (n - 1 - i) + 7` to `8 * (n - 1 - i)`. -/
theorem getElem?_eq_extractLsb'_pack {w : List Byte} {n i : ℕ} (hn : w.length = n) (hi : i < n) :
    w[i]? = some ((BitVec.ofNat (8 * n) (packBE w)).extractLsb' (8 * (n - 1 - i)) 8) := by
  rw [extractLsb'_ofNat_byte _ _ _ (by omega), getElem?_eq_packBE_div (hn ▸ hi), hn]

end Sys2Proof

open Sys2Proof

/-- Settles O3: a report's view is the view of 8 bytes. -/
theorem packedReportView : Obligations.PackedReportView :=
  fun _ hr _ hi => getElem?_eq_extractLsb'_pack hr hi

end

section
/-! SUPPORT. The port contract and the input stream (R54, R55, R192): O27 and O33. -/

namespace Sys2Proof.Machine

variable {s t : State}

/-- R55: an effect that is not the reset's logs the response it took, if any, and otherwise only events that leave the
input stream as it is. (Left-nested, a log shows its last event to the lemmas about the input stream.) -/
theorem StepEffect.inputStream_eq (h : StepEffect s t) (hr : s.input.rst = false) :
    inputStream t.log = inputStream s.log ++ s.input.resp.getD [] := by
  cases h with
  | reset hrst => exact absurd (hr.symm.trans hrst) Bool.false_ne_true
  | pollEmpty _ hd | pollCapture _ _ hd | padFill _ _ hd => simp [-List.append_assoc, hd]
  | scanHit _ hd =>
    rw [State.hitState_eq, State.requestPad_log]
    split <;> simp [hd, State.formCand]
  | wait _ hd | fastAccept _ hd | fastReject _ hd | scanEnd _ hd | scanSkip _ hd | candAcceptFirst _ hd
  | candAcceptAll _ hd | candReject _ hd => simp [-List.append_assoc, hd, State.sentState]

/-- R192: the input stream starts again at a reset, and the poll request after it adds nothing. -/
theorem StepEffect.inputStream_of_reset (h : StepEffect s t) (hr : s.input.rst = true) : inputStream t.log = [] := by
  rw [h.eq_reset hr, State.enterPoll_log, inputStream_readReq, State.clear_log, inputStream_reset]

end Sys2Proof.Machine

open Sys2Proof.Machine

/-- Settles O33: one lemma a clause, from the effects. -/
theorem inputStreamIsTheResponses : Obligations.InputStreamIsTheResponses :=
  fun _ _ h => ⟨(step_effect h).inputStream_of_reset, (step_effect h).inputStream_eq⟩

/-- Settles O27: each clause is a breach of the port contract, which the step refuses by its name (assumption 11). -/
theorem contractBreachHasNoMove : Obligations.ContractBreachHasNoMove :=
  fun _ d hr hd => ⟨fun ho => (State.Breach.noRequest hr d hd ho).step_eq,
    fun n ho hn => (State.Breach.tooLong hr d hd n ho hn).step_eq⟩

end

section
/-! SUPPORT. The encoder and the decoder of operation words (R70 to R81): one rule a word format. O6 to O10. -/

namespace Sys2Proof.Machine

variable {data bytes w : List Byte} {i : Instr}

/-! ## RESP words (R77) -/

theorem decodeResp_encodeResp (limit : Nat) (h : data.length < 16) :
    decodeResp limit (encodeResp data) =
      if limit < data.length then .error .responseTooLong else .ok data := by
  have hn : (BitVec.ofNat 8 data.length).toNat = data.length := by
    rw [BitVec.toNat_ofNat]; omega
  simp only [encodeResp, decodeResp, hn]
  rw [if_neg h.not_ge, if_neg (not_not.2 rfl)]

theorem decode_poll_tooLong (h11 : 11 < data.length) (h16 : data.length < 16) :
    decode ⟨.at .poll, encodeResp data⟩ = .error .responseTooLong := by
  simp only [decode, decodePoll, decodeResp_encodeResp _ h16, if_pos h11]

theorem decode_pad_tooLong (h10 : 10 < data.length) (h16 : data.length < 16) :
    decode ⟨.at .pad, encodeResp data⟩ = .error .responseTooLong := by
  simp only [decode, decodePad, decodeResp_encodeResp _ h16, if_pos h10]

/-- A word of POLL is the word of a response of at most 11 bytes. -/
theorem decode_poll_eq_ok (h : decode ⟨.at .poll, bytes⟩ = .ok i) :
    ∃ data, bytes = encodeResp data ∧ data.length ≤ 11 ∧
      i = if data = [] then .pollEmpty else .pollCapture data := by
  have h' : decodePoll bytes = .ok i := h
  cases hr : decodeResp Config.pollMax bytes with
  | error e => simp [decodePoll, hr] at h'
  | ok data =>
    obtain ⟨rfl, hlen⟩ := decodeResp_eq_ok hr
    rw [decode_poll hlen] at h
    exact ⟨data, rfl, hlen, (Except.ok.inj h).symm⟩

/-- A word of PAD is the word of a response of at most 10 bytes. -/
theorem decode_pad_eq_ok (h : decode ⟨.at .pad, bytes⟩ = .ok i) :
    ∃ data, bytes = encodeResp data ∧ data.length ≤ 10 ∧ i = .padFill data := by
  have h' : decodePad bytes = .ok i := h
  cases hr : decodeResp Config.padMax bytes with
  | error e => simp [decodePad, hr] at h'
  | ok data =>
    obtain ⟨rfl, hlen⟩ := decodeResp_eq_ok hr
    rw [decode_pad hlen] at h
    exact ⟨data, rfl, hlen, (Except.ok.inj h).symm⟩

/-! ## RST, F11 and BYTE words (R72, R79, R81) -/

theorem decode_rst (b : Byte) :
    decode ⟨.rst, [b]⟩ = if b.getLsbD 0 then .ok .reset else .error .resetNotAsserted := by
  have hbit : b &&& 0x01 = 0x01 ↔ b.getLsbD 0 = true := by
    rw [show b &&& 0x01 = _ from BitVec.and_one_eq_setWidth_ofBool_getLsbD]
    cases b.getLsbD 0 <;> decide
  simp only [decode, decodeRst, hbit]

theorem decodeF11_tooLong {accept reject : Instr} (h : Config.frameLen < w.length) :
    decodeF11 accept reject w = .error .sequenceTooLong := if_pos h

theorem decodeF11_eq_ok {accept reject : Instr} (h : decodeF11 accept reject w = .ok i) :
    i = accept ∨ i = reject := by
  unfold decodeF11 at h
  split_ifs at h
  · exact .inl (Except.ok.inj h).symm
  · exact .inr (Except.ok.inj h).symm

theorem decodeScan_eq_ok (h : decodeScan bytes = .ok i) : i = .scanEnd ∨ i = .scanHit ∨ i = .scanSkip := by
  match bytes with
  | [] => exact .inl (Except.ok.inj h).symm
  | [b] =>
    have hb := (decode_scan_byte b).symm.trans h
    split_ifs at hb
    · exact .inr (.inl (Except.ok.inj hb).symm)
    · exact .inr (.inr (Except.ok.inj hb).symm)

theorem decodeRst_eq_ok (h : decodeRst bytes = .ok i) : i = .reset := by
  match bytes with
  | [b] =>
    have hb := (decode_rst b).symm.trans h
    split_ifs at hb
    exact (Except.ok.inj hb).symm

end Sys2Proof.Machine

open Sys2Proof Sys2Proof.Machine

/-- Settles O6: the words of the RESP rows decode by their length, and each other row has one word. The byte layout of
a response word is the model's choice (assumption 6). -/
theorem decodeOfEncode : Obligations.DecodeOfEncode := by
  intro i hwf
  cases i with
  | pollCapture data =>
    simp only [Instr.wf, Bool.and_eq_true, decide_eq_true_eq] at hwf
    obtain ⟨h1, h11⟩ := hwf
    have hdec := decode_poll h11
    rwa [if_neg (List.ne_nil_of_length_pos h1)] at hdec
  | padFill data => exact decode_pad (of_decide_eq_true hwf)
  | pollEmpty | fastAccept | fastReject | scanEnd | scanHit | scanSkip | candAccept | candReject | reset => rfl

/-- Settles O7: what decodes in POLL or PAD is the word of a response, and so is the word of the operation. The byte
layout of a response word is the model's choice (assumption 6). -/
theorem encodeOfDecodedResponse : Obligations.EncodeOfDecodedResponse := by
  rintro c bytes i (rfl | rfl) h
  · obtain ⟨data, rfl, -, rfl⟩ := decode_poll_eq_ok h
    split
    · next hnil => rw [hnil]; rfl
    · rfl
  · obtain ⟨data, rfl, -, rfl⟩ := decode_pad_eq_ok h
    rfl

/-- Settles O8: only the rows of POLL and PAD carry data, and its length is what the word admits. -/
theorem decodedIsWellFormed : Obligations.DecodedIsWellFormed := by
  rintro ⟨_ | c, bytes⟩ i h
  · obtain rfl := decodeRst_eq_ok h
    rfl
  · cases c with
    | poll =>
      obtain ⟨data, -, h11, rfl⟩ := decode_poll_eq_ok h
      split
      · rfl
      · next hne =>
        simp only [Instr.wf, Bool.and_eq_true, decide_eq_true_eq]
        exact ⟨List.length_pos_iff.2 hne, h11⟩
    | pad =>
      obtain ⟨data, -, h10, rfl⟩ := decode_pad_eq_ok h
      exact decide_eq_true h10
    | fast | cand => obtain rfl | rfl := decodeF11_eq_ok h <;> rfl
    | scan => obtain rfl | rfl | rfl := decodeScan_eq_ok h <;> rfl

/-- Settles O9: one lemma a row. The layout of response words is the model's choice (assumption 6), and so are the names
of the rejections. -/
theorem operationMapOfWords : Obligations.OperationMapOfWords := by
  refine ⟨decode_rst, fun d h => ?_, fun _ h => decode_pad h, fun _ h => decodeF11_eq h, fun _ h => decodeF11_eq h,
    rfl, decode_scan_byte, fun _ h => ⟨decodeF11_tooLong h, decodeF11_tooLong h⟩,
    fun _ => decode_poll_tooLong, fun _ => decode_pad_tooLong⟩
  simp only [decode_poll h, List.length_eq_zero_iff]

/-- Settles O10: ten words written out, each decoded by evaluation. The layout of response words is the model's choice
(assumption 6). -/
theorem tableWordsDecode : Obligations.TableWordsDecode := by
  unfold Obligations.TableWordsDecode
  decide

end

section
/-! SUPPORT. The frame format (R72, R74, R75) and the pad count (R84): O1, O2, O4, O5. -/

namespace Sys2Proof

/-- R74, as four tests. -/
theorem frameOK_iff {w : List Byte} :
    frameOK w = true ↔ w.length = 11 ∧ w[0]? = some 0x02 ∧ w[1]? = some 0x08 ∧ w[10]? = some 0x03 := by
  simp only [frameOK, Bool.and_eq_true, decide_eq_true_eq, beq_iff_eq, and_assoc]

/-- A bit string of `n` bytes is fixed by its bytes. -/
theorem eq_of_extractLsb'_byte_eq {n : ℕ} {x y : BitVec (8 * n)}
    (h : ∀ k, k < n → x.extractLsb' (8 * k) 8 = y.extractLsb' (8 * k) 8) : x = y := by
  ext j hj
  have hbyte := congrArg (·.getLsbD (j % 8)) (h (j / 8) (by omega))
  have hmod : j % 8 < 8 := Nat.mod_lt _ (by decide)
  simpa only [BitVec.getLsbD_extractLsb', hmod, decide_true, Bool.true_and, Nat.div_add_mod,
    BitVec.getLsbD_eq_getElem hj] using hbyte

/-- R72: the mask keeps bytes 0, 1 and 10, and the match value has `STX`, `LEN_MARK` and `ETX` there. -/
theorem and_frameMask_eq_frameMatch_iff (x : BitVec 88) :
    x &&& frameMask = frameMatch ↔
      x.extractLsb' 80 8 = 0x02 ∧ x.extractLsb' 72 8 = 0x08 ∧ x.extractLsb' 0 8 = 0x03 := by
  have hbyte (k : ℕ) : (x &&& frameMask).extractLsb' (8 * k) 8 =
      x.extractLsb' (8 * k) 8 &&& frameMask.extractLsb' (8 * k) 8 := BitVec.extractLsb'_and
  constructor
  · intro h
    have hkept (k : ℕ) (hk : frameMask.extractLsb' (8 * k) 8 = BitVec.allOnes 8) :
        x.extractLsb' (8 * k) 8 = frameMatch.extractLsb' (8 * k) 8 := by
      rw [← h, hbyte, hk, BitVec.and_allOnes]
    exact ⟨hkept 10 rfl, hkept 9 rfl, hkept 0 rfl⟩
  · rintro ⟨hstx, hmark, hetx⟩
    refine eq_of_extractLsb'_byte_eq (n := 11) fun k hk => (hbyte k).trans ?_
    have hfree : ∀ k < 9, 0 < k →
        frameMask.extractLsb' (8 * k) 8 = 0#8 ∧ frameMatch.extractLsb' (8 * k) 8 = 0#8 := by decide
    obtain rfl | rfl | rfl | ⟨hpos, hlt⟩ : k = 10 ∨ k = 9 ∨ k = 0 ∨ 0 < k ∧ k < 9 := by omega
    · rw [hstx]; rfl
    · rw [hmark]; rfl
    · rw [hetx]; rfl
    · obtain ⟨hmask, hmatch⟩ := hfree k hlt hpos
      rw [hmask, hmatch, BitVec.and_zero]

end Sys2Proof

open Sys2Proof Sys2Proof.Machine

/-- Settles O1: the four tests of R74. -/
theorem frameOKIsTheFourTests : Obligations.FrameOKIsTheFourTests := fun _ => frameOK_iff

/-- Settles O2: the masked comparison is one of bytes 0, 1 and 10 of the view, which are the sequence's. -/
theorem packedPatternIsFrameOK : Obligations.PackedPatternIsFrameOK := by
  refine ⟨rfl, rfl, fun w hw => ?_⟩
  have hview : ∀ i, i < 11 → w[i]? = some ((packFrame w).extractLsb' (8 * (10 - i)) 8) :=
    fun i hi => getElem?_eq_extractLsb'_pack hw hi
  refine ⟨hview, (and_frameMask_eq_frameMatch_iff _).trans ?_⟩
  rw [frameOK_iff, hview 0 (by decide), hview 1 (by decide), hview 10 (by decide)]
  simp only [hw, true_and, Option.some.injEq, Nat.reduceSub, Nat.reduceMul]

/-- Settles O4: of 11 bytes, 8 are left from offset 2 on, ETX dropped. -/
theorem payloadIsBytesTwoToNine : Obligations.PayloadIsBytesTwoToNine := by
  intro w h
  refine ⟨payload_length h, fun j hj => ?_⟩
  rw [payload, List.getElem?_take_of_lt hj, List.getElem?_drop, Nat.add_comm]

/-- Settles O5: neither subtraction wraps (R126), and on numbers the rest is arithmetic. -/
theorem padCountFormula : Obligations.PadCountFormula := by
  intro clen idx hlt h11
  rw [toNat_padCount hlt.le h11]
  omega

end

section
/-! SUPPORT. The operation map at a step (R81): the row a step runs, the rows that do not apply, and the placing of an
opcode-table word. O23, O25, O52. -/

namespace Sys2Proof.Machine

variable {s : State}

@[simp] theorem onRow_false (k : Out) : onRow false k = .refused .rowNotSelected := rfl

/-- R81: the slot of an operation's word is its row's state column, and in another control state the row does not apply
(assumption 8): the state is the first test of every meaning but RESET's. -/
theorem exec_eq_refused {i : Instr} {c : Ctrl} (hi : (encode i).slot = .at c) (hs : s.st ≠ c) :
    exec i s = .refused .rowNotSelected := by
  cases i <;> cases hi
  all_goals
    simp only [exec, execPollEmpty, execPollCapture, State.polling, execFastAccept, execFastReject, execScanEnd,
      execScanHit, execScanSkip, execPadFill, State.padding, execCandAccept, execCandReject, hs, decide_false,
      Bool.false_and, onRow_false]

/-! ## The row a step runs -/

theorem step_eq_exec_poll {data : List Byte} (hr : s.input.rst = false) (hd : s.input.resp = some data)
    (hs : s.st = .poll) (ho : s.out = .req 11#4) (h11 : data.length ≤ 11) :
    step s = exec (if data = [] then .pollEmpty else .pollCapture data) s :=
  step_of_see_word ((see_of_response hr hd).trans (seeResponse_poll hs ho h11)) (decode_poll h11)

theorem step_eq_exec_pad {data : List Byte} (hr : s.input.rst = false) (hd : s.input.resp = some data)
    (hs : s.st = .pad) (ho : s.out = .req s.need) (h10 : s.need.toNat ≤ 10) (hn : data.length ≤ s.need.toNat) :
    step s = exec (.padFill data) s :=
  step_of_see_word ((see_of_response hr hd).trans (seeResponse_pad hs ho hn)) (decode_pad (hn.trans h10))

theorem step_eq_exec_fast {w : List Byte} (hr : s.input.rst = false) (hd : s.input.resp = none)
    (hs : s.st = .fast) (hw : s.chunk.seq s.clen = .ok w) :
    step s = exec (if frameOK w then .fastAccept else .fastReject) s :=
  step_of_see_word ((see_of_no_response hr hd).trans (seeRegisters_fast hs hw))
    (decodeF11_eq (Buffer.length_le_of_seq hw))

theorem step_eq_exec_scanEnd (hr : s.input.rst = false) (hd : s.input.resp = none) (hs : s.st = .scan)
    (hi : s.idx = s.clen) : step s = exec .scanEnd s :=
  step_of_see_word ((see_of_no_response hr hd).trans (seeRegisters_scanEnd hs hi)) rfl

theorem step_eq_exec_scan {b : Byte} (hr : s.input.rst = false) (hd : s.input.resp = none) (hs : s.st = .scan)
    (hi : s.idx ≠ s.clen) (hb : s.chunk.read s.clen s.idx.toNat = .ok b) :
    step s = exec (if b = 0x02 then .scanHit else .scanSkip) s :=
  step_of_see_word ((see_of_no_response hr hd).trans (seeRegisters_scan hs hi hb)) (decode_scan_byte b)

theorem step_eq_exec_cand {w : List Byte} (hr : s.input.rst = false) (hd : s.input.resp = none)
    (hs : s.st = .cand) (hw : s.cand.seq s.candLen = .ok w) :
    step s = exec (if frameOK w then .candAccept else .candReject) s :=
  step_of_see_word ((see_of_no_response hr hd).trans (seeRegisters_cand hs hw))
    (decodeF11_eq (Buffer.length_le_of_seq hw))

/-! ## A placed word is seen (assumption 7) -/

theorem see_withWord_rst (s : State) : see (s.withWord ⟨.rst, [0x01]⟩) = .word ⟨.rst, [0x01]⟩ :=
  see_of_reset rfl

theorem see_withWord_poll (s : State) {data : List Byte} (h : data.length ≤ 11) :
    see (s.withWord ⟨.at .poll, encodeResp data⟩) = .word ⟨.at .poll, encodeResp data⟩ :=
  (see_of_response (data := data) rfl rfl).trans (seeResponse_poll rfl rfl h)

theorem see_withWord_fast (s : State) {w : List Byte} (h : w.length ≤ 11) :
    see (s.withWord ⟨.at .fast, w⟩) = .word ⟨.at .fast, w⟩ :=
  (see_of_no_response rfl rfl).trans (seeRegisters_fast rfl (Buffer.seq_write_zero _ _ h))

theorem see_withWord_scanEnd (s : State) : see (s.withWord ⟨.at .scan, []⟩) = .word ⟨.at .scan, []⟩ :=
  (see_of_no_response rfl rfl).trans (seeRegisters_scanEnd rfl rfl)

theorem see_withWord_scan (s : State) (b : Byte) :
    see (s.withWord ⟨.at .scan, [b]⟩) = .word ⟨.at .scan, [b]⟩ := by
  have hseq : (s.chunk.write 0 [b]).seq (Count.of 1) = .ok [b] := Buffer.seq_write_zero _ _ (Nat.le_add_left 1 10)
  refine (see_of_no_response rfl rfl).trans (seeRegisters_scan rfl ?_ (Buffer.read_of_getElem? hseq rfl))
  exact show (0 : Count) ≠ Count.of 1 by decide

@[simp] theorem length_bytesLE (n : ℕ) : ∀ w : ℕ, (bytesLE n w).length = n := by
  induction n with
  | zero => exact fun _ => rfl
  | succ n ih => exact fun w => congrArg Nat.succ (ih _)

/-- Assumption 7: the data above a count byte is as long as the count, so the two are a RESP word. -/
theorem encodeResp_bytesLE (w v : ℕ) :
    encodeResp (bytesLE (w % 256) v) = BitVec.ofNat 8 w :: bytesLE (w % 256) v := by
  have hcount : BitVec.ofNat 8 (w % 256) = BitVec.ofNat 8 w := BitVec.eq_of_toNat_eq (Nat.mod_mod w 256)
  rw [encodeResp, length_bytesLE, hcount]

end Sys2Proof.Machine

open Sys2Proof Sys2Proof.Machine

/-- Settles O23: an operation's row is that of its word's slot. That the outcome elsewhere is a refusal is the model's
choice (assumption 8). -/
theorem rowsApplyInTheirStateOnly : Obligations.RowsApplyInTheirStateOnly := by
  rintro s i (⟨rfl | ⟨d, rfl⟩, hs⟩ | ⟨rfl | rfl, hs⟩ | ⟨rfl | rfl | rfl, hs⟩ | ⟨⟨d, rfl⟩, hs⟩ | ⟨rfl | rfl, hs⟩) <;>
    exact exec_eq_refused rfl hs

/-- Settles O25: in each control state the step decodes the word it sees, and the clauses are the branches of that
state's row group. -/
theorem operationMapOfStep : Obligations.OperationMapOfStep := by
  refine fun s => ⟨fun hr => ?_, fun hr d hd hs ho => ⟨fun h0 => ?_, fun h1 h11 => ?_⟩,
    fun hr d hd hs ho h10 hn => step_eq_exec_pad hr hd hs ho h10 hn, fun hr hd => ⟨fun w hs hw => ?_,
    step_eq_exec_scanEnd hr hd, fun b hs hi hb => ?_, fun w hs hw => ?_⟩⟩
  · exact step_of_see_word (see_of_reset hr) rfl
  · rw [step_eq_exec_poll hr hd hs ho (by omega), if_pos (List.length_eq_zero_iff.1 h0)]
  · rw [step_eq_exec_poll hr hd hs ho h11, if_neg (List.ne_nil_of_length_pos h1)]
  · rw [step_eq_exec_fast hr hd hs hw]
    exact ⟨fun hf => by rw [if_pos hf], fun hf => by rw [hf]; rfl⟩
  · rw [step_eq_exec_scan hr hd hs hi hb]
    exact ⟨fun hx => by rw [if_pos hx], fun hx => by rw [if_neg hx]⟩
  · rw [step_eq_exec_cand hr hd hs hw]
    exact ⟨fun hf => by rw [if_pos hf], fun hf => by rw [hf]; rfl⟩

/-- Settles O52: each reading of a table word is placed where a step of its slot looks. The reading is the model's choice
(assumption 7). -/
theorem placedTableWordIsSeen : Obligations.PlacedTableWordIsSeen := by
  intro s nbits w
  unfold State.withFetchWord tableWord
  split_ifs with hnone hframe hrst hstx hcount
  · exact see_withWord_scanEnd s
  · exact see_withWord_fast s (by simp [bytesBE, Config.frameLen])
  · exact see_withWord_rst s
  · exact see_withWord_scan s _
  · rw [← encodeResp_bytesLE]
    exact see_withWord_poll s ((length_bytesLE _ _).trans_le hcount)
  · exact see_withWord_scan s _

end

section
/-! SUPPORT. The slow path (R105, R127, R128): what each operation leaves of the chunk and the candidate, and O40. -/

namespace Sys2Proof.Machine

variable {s t : State} {c u w data : List Byte}

/-! ## What `SlowInv` and `PadTailInv` ask, by control state -/

theorem State.slowInv_of_fastPath (hs : s.st = .poll ∨ s.st = .fast) : s.SlowInv := by
  rcases hs with hs | hs <;> simp [State.SlowInv, hs]

theorem State.slowInv_of_scan (hs : s.st = .scan)
    (h : ∀ c, s.chunk.seq s.clen = .ok c → frameOK c = false) : s.SlowInv :=
  ⟨fun _ => h, by simp [hs]⟩

theorem State.padTailInv_of_ne_cand (hs : s.st ≠ .cand) : s.PadTailInv := fun hcand => absurd hcand hs

theorem State.SlowInv.chunk_no_frame (h : s.SlowInv) (hs : s.st = .scan ∨ s.st = .pad ∨ s.st = .cand) :
    ∀ c, s.chunk.seq s.clen = .ok c → frameOK c = false := by
  obtain ⟨hno, -⟩ := h
  exact hno hs

/-- R128: before its pad comes the candidate is the chunk from IDX on, and nothing else. -/
theorem State.SlowInv.cand_eq_drop (h : s.SlowInv) (hs : s.st = .pad)
    (hlen : s.candLen.toNat = s.clen.toNat - s.idx.toNat)
    (hc : s.chunk.seq s.clen = .ok c) (hu : s.cand.seq s.candLen = .ok u) : u = c.drop s.idx.toNat := by
  obtain ⟨-, htake⟩ := h
  have hul : u.length = c.length - s.idx.toNat := by
    rw [((Buffer.seq_eq_ok ..).1 hu).1, ((Buffer.seq_eq_ok ..).1 hc).1, hlen]
  rw [← htake (.inl hs) c u hc hu, ← hul, List.take_length]

/-! ## SCAN_HIT -/

/-- R122: the candidate is the slice of the chunk from IDX on, in PAD and in CAND. -/
theorem State.SlowInv.hitState (h : s.SlowInv) (hs : s.st = .scan) (hinv : s.ScanInv)
    (hw : s.chunk.slice s.clen s.idx.toNat (s.clen - s.idx).toNat = .ok w) : (s.hitState w).SlowInv := by
  obtain ⟨-, hchunk, hle⟩ := hinv
  have hseq : (s.formCand w).cand.seq (s.formCand w).candLen = .ok w := seq_of_hit _ _ hle hchunk.clen_le hw
  simp only [State.hitState_eq, State.SlowInv, State.requestPad_chunk, State.requestPad_clen,
    State.requestPad_cand, State.requestPad_candLen, State.requestPad_idx]
  refine ⟨fun _ => h.chunk_no_frame (.inl hs), fun _ c d hc hd => ?_⟩
  obtain rfl := Except.ok.inj (hseq.symm.trans hd)
  obtain rfl := drop_of_hit _ hle hc hw
  exact List.take_of_length_le (List.length_drop ..).le

/-- R122, R129: SCAN_HIT goes to CAND only with a candidate of 11 bytes, which has no pad. -/
theorem State.ScanInv.hitState_padTailInv (hinv : s.ScanInv) : (s.hitState w).PadTailInv := by
  obtain ⟨-, hchunk, hle⟩ := hinv
  have hneed : (s.formCand w).need.toNat = 11 - (s.clen.toNat - s.idx.toNat) := toNat_padCount hle hchunk.clen_le
  simp only [State.hitState_eq, State.PadTailInv, State.requestPad_st, State.requestPad_clen,
    State.requestPad_idx]
  intro hcand (hlt : s.clen.toNat - s.idx.toNat < 11)
  rw [if_pos (by omega)] at hcand
  contradiction

/-! ## PAD_FILL -/

/-- The state PAD_FILL leaves. -/
def State.fillState (s : State) (data : List Byte) : State :=
  { s.tick.respond data with
    cand := s.cand.write s.candLen.toNat data
    candLen := s.candLen + Count.of data.length
    st := .cand }

/-- R123: the pad response follows the candidate's chunk bytes. -/
theorem State.PadInv.seq_fill (h : s.PadInv) (hn : data.length ≤ s.need.toNat)
    (hu : s.cand.seq s.candLen = .ok u) :
    (s.fillState data).cand.seq (s.fillState data).candLen = .ok (u ++ data) := by
  obtain ⟨-, h1, -, -, -, hneed⟩ := h
  exact Buffer.seq_write_append _ _ _ _ hu (by omega)

theorem State.SlowInv.fill (h : s.SlowInv) (hs : s.st = .pad) (hinv : s.PadInv)
    (hn : data.length ≤ s.need.toNat) : (s.fillState data).SlowInv := by
  refine ⟨fun _ => h.chunk_no_frame (.inr (.inl hs)), fun _ c d hc hd => ?_⟩
  obtain ⟨-, -, -, hcand, hlen, -⟩ := id hinv
  obtain ⟨u, hu⟩ := hcand.exists_seq
  obtain rfl := Except.ok.inj ((hinv.seq_fill hn hu).symm.trans hd)
  obtain rfl := h.cand_eq_drop hs hlen hc hu
  exact List.take_left' (List.length_drop ..)

/-- R128: the bytes after the chunk's are the response just logged. -/
theorem State.PadInv.fill_padTailInv (h : s.PadInv) (hn : data.length ≤ s.need.toNat) :
    (s.fillState data).PadTailInv := by
  intro _ _ d hd
  obtain ⟨-, -, -, hcand, hlen, -⟩ := id h
  obtain ⟨u, hu⟩ := hcand.exists_seq
  have hul : u.length = s.clen.toNat - s.idx.toNat := ((Buffer.seq_eq_ok ..).1 hu).1.trans hlen
  obtain rfl := Except.ok.inj ((h.seq_fill hn hu).symm.trans hd)
  exact (lastResponse_readResp ..).trans (congrArg some (List.drop_left' hul).symm)

/-! ## Every effect of a step -/

theorem StepEffect.slowInv (h : StepEffect s t) (hinv : s.Inv) (hslow : s.SlowInv) : t.SlowInv := by
  cases h with
  | reset | pollEmpty | fastAccept | scanEnd | candAcceptFirst => exact State.slowInv_of_fastPath (.inl rfl)
  | pollCapture => exact State.slowInv_of_fastPath (.inr rfl)
  | wait => exact hslow
  | fastReject hr hd hs w hw hf =>
    refine State.slowInv_of_scan rfl fun c hc => ?_
    obtain rfl := Except.ok.inj (hw.symm.trans hc)
    exact hf
  | scanSkip hr hd hs => exact State.slowInv_of_scan hs (hslow.chunk_no_frame (.inl hs))
  | scanHit hr hd hs hi hb w hw => exact hslow.hitState hs ((State.inv_iff_scanInv hs).1 hinv) hw
  | padFill hr data hd hs ho hn => exact hslow.fill hs ((State.inv_iff_padInv hs).1 hinv) hn
  | candAcceptAll hr hd hs | candReject hr hd hs =>
    exact State.slowInv_of_scan rfl (hslow.chunk_no_frame (.inr (.inr hs)))

/-- R128: CAND is entered by SCAN_HIT and PAD_FILL only, and no step stays there. -/
theorem StepEffect.padTailInv (h : StepEffect s t) (hinv : s.Inv) : t.PadTailInv := by
  cases h with
  | reset | pollEmpty | pollCapture | fastAccept | fastReject | scanEnd | candAcceptFirst | candAcceptAll
  | candReject => exact State.padTailInv_of_ne_cand nofun
  | wait hr hd hs => exact State.padTailInv_of_ne_cand (by rcases hs with hs | hs <;> simp [hs])
  | scanSkip hr hd hs => exact State.padTailInv_of_ne_cand (by simp [hs])
  | scanHit hr hd hs => exact ((State.inv_iff_scanInv hs).1 hinv).hitState_padTailInv
  | padFill hr data hd hs ho hn => exact ((State.inv_iff_padInv hs).1 hinv).fill_padTailInv hn

end Sys2Proof.Machine

open Sys2Proof.Machine

/-- Settles O40: SCAN is entered from FAST with a chunk that is no frame, SCAN_HIT copies the chunk from IDX on, and the
pad response is appended by the step that logs it. -/
theorem stepKeepsTheSlowPath : Obligations.StepKeepsTheSlowPath :=
  fun _ _ hinv hslow h => ⟨(step_effect h).slowInv hinv hslow, (step_effect h).padTailInv hinv⟩

end

section
/-! SUPPORT. The operations of POLL and FAST (R101 to R105): completion, result and frame; O11 to O14. And what they
make of a poll (R101, R106): O28, O45. -/

namespace Sys2Proof.Machine

variable {s t : State}

/-! ## The entry into POLL -/

/-- R101: where one event is logged before the poll request, the log gains these two and no other register changes. -/
theorem State.enterPoll_eq_of_log {e : Event} (h : t.log = s.log ++ [e]) :
    t.enterPoll = { t with
      log := s.log ++ [e, .readReq 11#4]
      st := .poll
      out := .req 11#4 } := by
  have hlog : t.log ++ [.readReq 11#4] = s.log ++ [e, .readReq 11#4] := by rw [h, ← List.append_cons]
  rw [← hlog]
  rfl

/-- R101: the poll request is the last of the events added. -/
theorem State.enterPoll_requests_of_log {es : List Event} (h : t.log = s.log ++ es) :
    t.enterPoll.out = .req 11#4 ∧ ∃ es, t.enterPoll.log = s.log ++ es ++ [.readReq 11#4] :=
  ⟨rfl, es, congrArg (· ++ _) h⟩

theorem State.waits_of_no_response (hr : s.input.rst = false) (hd : s.input.resp = none)
    (hs : s.st = .poll ∨ s.st = .pad) : s.waits = true :=
  decide_eq_true ((see_of_no_response hr hd).trans (seeRegisters_eq_wait hs))

/-- R101: every effect but a wait that leads to POLL is an entry into POLL. -/
theorem StepEffect.requests_of_poll (h : StepEffect s t) (hw : s.waits = false) (ht : t.st = .poll) :
    t.out = .req 11#4 ∧ ∃ es, t.log = s.log ++ es ++ [.readReq 11#4] := by
  cases h with
  | wait hr hd hs => exact absurd ((State.waits_of_no_response hr hd hs).symm.trans hw) (by decide)
  | reset | pollEmpty | fastAccept => exact State.enterPoll_requests_of_log rfl
  | scanEnd => exact State.enterPoll_requests_of_log (List.append_nil _).symm
  | candAcceptFirst => exact State.enterPoll_requests_of_log (List.append_assoc ..)
  | pollCapture | padFill | fastReject | candAcceptAll | candReject => exact nomatch ht
  | scanSkip hr hd hs => exact nomatch hs.symm.trans ht
  | scanHit =>
    rw [State.hitState_eq, State.requestPad_st] at ht
    split_ifs at ht

/-! ## POLL_CAPTURE -/

/-- The state POLL_CAPTURE leaves. -/
def State.captureState (s : State) (data : List Byte) : State :=
  { s.tick.respond data with chunk := s.chunk.write 0 data, clen := Count.of data.length, st := .fast }

theorem State.captureState_input (s : State) (data : List Byte) : (s.captureState data).input = s.tick.input := rfl

/-- R103: an element past the response keeps its storage. -/
theorem Buffer.write_zero_getElem?_of_le (b : Buffer) {w : List Byte} {i : ℕ} (h : w.length ≤ i) :
    (b.write 0 w)[i]? = b[i]? := by
  rw [Buffer.write_getElem?, if_neg (by omega)]

/-! ## A frame built around a report (R74, R75) -/

theorem frameOK_of_report {r : List Byte} (h : r.length = 8) : frameOK ([0x02, 0x08] ++ r ++ [0x03]) = true := by
  rw [frameOK_iff]
  simp [h]

theorem payload_of_report {r : List Byte} (h : r.length = 8) : payload ([0x02, 0x08] ++ r ++ [0x03]) = r :=
  List.take_left' h

end Sys2Proof.Machine

open Sys2Proof Sys2Proof.Machine

/-- Settles O12: the capture completes for 1 to 11 bytes and for no other response, and writes the chunk from element 0
on. -/
theorem pollCaptureResult : Obligations.PollCaptureResult := by
  intro s d hs ho h1
  refine ⟨fun hlong t h => ?_, fun h11 => ?_⟩
  · obtain ⟨-, -, -, h11, -⟩ := execPollCapture_next h
    exact h11.not_gt hlong
  · exact ⟨_, _, execPollCapture_eq_next hs ho h1 h11, rfl, Buffer.seq_write_zero _ _ h11,
      fun _ => Buffer.write_zero_getElem?_of_le _⟩

/-- Settles O28: every effect that leads to POLL, but a wait, ends with the entry into POLL. -/
theorem everyEntryIntoPollRequestsEleven : Obligations.EveryEntryIntoPollRequestsEleven :=
  fun _ _ h => (step_effect h).requests_of_poll

/-- Settles O45: the first step captures the frame, the second accepts it. That the two steps let their entries of the
input list pass is the model's own bookkeeping (assumption 1). -/
theorem wholeFrameGivesOneReport : Obligations.WholeFrameGivesOneReport := by
  intro s r rest hs ho hr hin
  have hframe := frameOK_of_report hr
  generalize hf : [0x02, 0x08] ++ r ++ [0x03] = f at hin hframe ⊢
  have hpay : payload f = r := hf ▸ payload_of_report hr
  have hlen : f.length = 11 := length_of_frameOK hframe
  have hinput : s.input = ⟨false, some f⟩ := by rw [State.input, hin]; rfl
  have hidle : (s.captureState f).input = Input.idle := by
    rw [State.captureState_input, State.input, State.tick_inputs, hin]; rfl
  have hcapture : StepEffect s (s.captureState f) :=
    .pollCapture (by rw [hinput]) f (by rw [hinput]) hs ho (by omega) hlen.le
  have haccept : StepEffect (s.captureState f) ((s.captureState f).tick.sinkSend (payload f)).enterPoll :=
    .fastAccept (by rw [hidle]; rfl) (by rw [hidle]; rfl) rfl f (Buffer.seq_write_zero _ _ hlen.le) hframe
  have hinv : s.Inv := (State.inv_iff_pollInv hs).2 ho
  refine ⟨_, (run_succ_of_next 1 (hcapture.step_eq hinv)).trans
    (run_succ_of_next 0 (haccept.step_eq (hcapture.inv hinv))), rfl, ?_, ?_⟩
  · rw [haccept.inputs_eq_tail, hcapture.inputs_eq_tail, hin]; rfl
  · simp [State.captureState, hpay]

/-- Settles O11: POLL_EMPTY's next state is the entry into POLL after the empty response. -/
theorem pollEmptyResult : Obligations.PollEmptyResult := by
  intro s hs ho
  refine ⟨_, execPollEmpty_eq_next hs ho, ?_⟩
  rw [State.enterPoll_eq_of_log (s := s) rfl]
  rfl

/-- Settles O13: FAST_ACCEPT's next state is the entry into POLL after the report. -/
theorem fastAcceptResult : Obligations.FastAcceptResult := by
  intro s w hs hw hf
  refine ⟨_, execFastAccept_eq_next hs hw hf, ?_⟩
  rw [State.enterPoll_eq_of_log (s := s) rfl]
  rfl

/-- Settles O14: FAST_REJECT logs no event but a trace, which the observation leaves out. -/
theorem fastRejectResult : Obligations.FastRejectResult := by
  intro s w hs hw hf
  refine ⟨_, execFastReject_eq_next hs hw hf, ?_, rfl⟩
  rw [State.trace_log, observe_append, observe_traceEvents, List.append_nil, State.tick_log]

end

section
/-! SUPPORT. How long an iteration can be and what it can have done (R131): the measure `stepsLeft` by control state
and its decrease, the bounds at the last position; O43 and O42. With R129's candidate of a full chunk: O44. -/

namespace Sys2Proof.Machine

variable {s t : State} {w : List Byte}

/-! ## The measure, one row a control state -/

theorem State.stepsLeft_poll (hs : s.st = .poll) : s.stepsLeft = 35 := by simp only [State.stepsLeft, hs]
theorem State.stepsLeft_fast (hs : s.st = .fast) : s.stepsLeft = 34 := by simp only [State.stepsLeft, hs]
theorem State.stepsLeft_scan (hs : s.st = .scan) :
    s.stepsLeft = 3 * (s.clen.toNat - s.idx.toNat) + 1 -
      (if s.idx.toNat = 0 ∧ s.clen.toNat = 11 then 1 else 0) := by
  simp only [State.stepsLeft, hs]
theorem State.stepsLeft_pad (hs : s.st = .pad) : s.stepsLeft = 3 * (s.clen.toNat - s.idx.toNat) := by
  simp only [State.stepsLeft, hs]
theorem State.stepsLeft_cand (hs : s.st = .cand) : s.stepsLeft = 3 * (s.clen.toNat - s.idx.toNat) - 1 := by
  simp only [State.stepsLeft, hs]

/-- R131: at least one step is left, and never more than from a poll: R33 bounds the positions not yet scanned. -/
theorem State.stepsLeft_bounds (hinv : s.Inv) : 1 ≤ s.stepsLeft ∧ s.stepsLeft ≤ 35 := by
  cases hs : s.st with
  | poll => rw [State.stepsLeft_poll hs]; omega
  | fast => rw [State.stepsLeft_fast hs]; omega
  | scan =>
    obtain ⟨-, hchunk, hle⟩ := (State.inv_iff_scanInv hs).1 hinv
    have h11 := hchunk.clen_le
    obtain ⟨h1, -⟩ := hchunk
    rw [State.stepsLeft_scan hs]
    split <;> omega
  | pad =>
    obtain ⟨-, -, -, ⟨hchunk, hlt, -⟩, -⟩ := (State.inv_iff_padInv hs).1 hinv
    have h11 := hchunk.clen_le
    rw [State.stepsLeft_pad hs]
    omega
  | cand =>
    obtain ⟨-, hchunk, hlt, -⟩ := (State.inv_iff_candInv hs).1 hinv
    have h11 := hchunk.clen_le
    rw [State.stepsLeft_cand hs]
    omega

/-! ## Each operation that does not end the iteration uses a step up -/

/-- R105: the slow path begins with at most 33 steps left. -/
theorem State.stepsLeft_le_of_slowStart (hs : s.st = .scan) (h0 : s.idx = 0) (h11 : s.clen.toNat ≤ 11) :
    s.stepsLeft ≤ 33 := by
  have hidx : s.idx.toNat = 0 := congrArg BitVec.toNat h0
  rw [State.stepsLeft_scan hs]
  split <;> omega

/-- R121, R124, R125: at the next position at least one step less is left than at the check of this one. -/
theorem State.stepsLeft_next (hs : t.st = .scan) (hc : t.clen = s.clen) (hi : t.idx = s.idx + 1)
    (hlt : s.idx.toNat < s.clen.toNat) (h11 : s.clen.toNat ≤ 11)
    (hle : 3 * (s.clen.toNat - s.idx.toNat) - 1 ≤ s.stepsLeft) : t.stepsLeft + 1 ≤ s.stepsLeft := by
  have hsucc : t.idx.toNat = s.idx.toNat + 1 := (congrArg BitVec.toNat hi).trans (toNat_idx_succ hlt h11)
  rw [State.stepsLeft_scan hs, hc, hsucc, if_neg (by omega)]
  omega

/-- R122, R131: SCAN_HIT uses a step up, and where it needs no pad the candidate is that of a full chunk. -/
theorem State.ScanInv.stepsLeft_hitState (hinv : s.ScanInv) (hs : s.st = .scan) (hi : s.idx ≠ s.clen) :
    (s.hitState w).stepsLeft + 1 ≤ s.stepsLeft := by
  have hlt := hinv.idx_lt hi
  have h11 := hinv.clen_le
  have hneed : (s.formCand w).need.toNat = 11 - (s.clen.toNat - s.idx.toNat) := toNat_padCount hlt.le h11
  rw [State.stepsLeft_scan hs, State.hitState_eq, State.requestPad]
  split_ifs with hpos hfull hfull
  · omega
  · rw [State.stepsLeft_pad rfl]
    exact Nat.le_refl _
  · rw [State.stepsLeft_cand rfl]
    change 3 * (s.clen.toNat - s.idx.toNat) - 1 + 1 ≤ _
    omega
  · omega

/-- R131: every effect but a wait and a reset ends the iteration or uses a step up. -/
theorem StepEffect.stepsLeft_lt (h : StepEffect s t) (hinv : s.Inv) (hr : s.input.rst = false)
    (hwaits : s.waits = false) : t.st = .poll ∨ t.stepsLeft + 1 ≤ s.stepsLeft := by
  cases h with
  | reset hrst => exact absurd (hr.symm.trans hrst) Bool.false_ne_true
  | wait hr hd hs => exact absurd ((State.waits_of_no_response hr hd hs).symm.trans hwaits) (by decide)
  | pollEmpty | fastAccept | scanEnd | candAcceptFirst => exact .inl rfl
  | pollCapture hr data hd hs => exact .inr (State.stepsLeft_poll hs).ge
  | fastReject hr hd hs =>
    obtain ⟨-, hchunk⟩ := (State.inv_iff_fastInv hs).1 hinv
    rw [State.stepsLeft_fast hs]
    exact .inr (Nat.succ_le_succ (State.stepsLeft_le_of_slowStart rfl rfl hchunk.clen_le))
  | scanSkip hr hd hs hi =>
    have hscan := (State.inv_iff_scanInv hs).1 hinv
    have hlt := hscan.idx_lt hi
    refine .inr (State.stepsLeft_next hs rfl rfl hlt hscan.clen_le ?_)
    rw [State.stepsLeft_scan hs]
    split <;> omega
  | scanHit hr hd hs hi => exact .inr (((State.inv_iff_scanInv hs).1 hinv).stepsLeft_hitState hs hi)
  | padFill hr data hd hs =>
    obtain ⟨-, -, -, ⟨-, hlt, -⟩, -⟩ := (State.inv_iff_padInv hs).1 hinv
    right
    rw [State.stepsLeft_pad hs, State.stepsLeft_cand rfl]
    change 3 * (s.clen.toNat - s.idx.toNat) - 1 + 1 ≤ _
    omega
  | candAcceptAll hr hd hs | candReject hr hd hs =>
    obtain ⟨-, hchunk, hlt, -⟩ := (State.inv_iff_candInv hs).1 hinv
    exact .inr (State.stepsLeft_next rfl rfl rfl hlt hchunk.clen_le (State.stepsLeft_cand hs).ge)

/-! ## What an iteration can have done at most -/

theorem padPositions_le_ten {clen i : ℕ} (hi : i ≤ clen) (h11 : clen ≤ 11) : padPositions clen i ≤ 10 := by
  simp only [padPositions, Config.frameLen]
  split <;> omega

theorem add_padBudget_le {clen i : ℕ} (hi : i ≤ clen) (h11 : clen ≤ 11) : clen + padBudget clen i ≤ 66 := by
  have hall : ∀ c ≤ 11, ∀ j ≤ c, c + padBudget c j ≤ 66 := by decide
  exact hall clen h11 i hi

/-- R131's bounds, from those of a position of a chunk. -/
theorem State.iterationBounds_of_position {i : ℕ} (hi : i ≤ s.clen.toNat) (h11 : s.clen.toNat ≤ 11)
    (hh : s.HitInv) (hp : s.padRequests ≤ padPositions s.clen.toNat i)
    (hb : s.bytesConsumed ≤ s.clen.toNat + padBudget s.clen.toNat i)
    (hrep : 2 * s.reportsSent ≤ padPositions s.clen.toNat i + 1) :
    s.padRequests ≤ 10 ∧ s.bytesConsumed ≤ 66 ∧ s.reportsSent ≤ 5 ∧
      (s.scanMode = .first → s.reportsSent = 0) := by
  have h10 := padPositions_le_ten hi h11
  obtain ⟨-, hfirst⟩ := hh
  exact ⟨hp.trans h10, hb.trans (add_padBudget_le hi h11), by omega, hfirst⟩

/-! ## The candidate that needs no pad -/

/-- R129: at position 0 of a full chunk the candidate is no frame. -/
theorem State.SlowInv.frameOK_eq_false_of_full (h : s.SlowInv) (hs : s.st = .cand) (hc : s.ChunkHeld)
    (hw : s.cand.seq s.candLen = .ok w) (h0 : s.idx.toNat = 0) (h11 : s.clen.toNat = 11) :
    frameOK w = false :=
  Bool.eq_false_iff.2 fun hf => h.not_full hs hc hw hf ⟨h0, h11⟩

theorem execCandAccept_eq_refused (hs : s.st = .cand) (hw : s.cand.seq s.candLen = .ok w)
    (hf : frameOK w = false) : execCandAccept s = .refused .rowNotSelected := by
  simp only [execCandAccept, hs, hw, hf, decide_true, withRead_ok, onRow_true, onRow_false]

end Sys2Proof.Machine

open Sys2Proof Sys2Proof.Machine

/-- Settles O43: the measure is 3 steps a position not yet scanned and one for SCAN_END, and each effect that does not
end the iteration uses one of them up. -/
theorem iterationEndsInThirtyFiveSteps : Obligations.IterationEndsInThirtyFiveSteps :=
  ⟨fun _ => State.stepsLeft_bounds, fun _ _ hinv h hr hw => (step_effect h).stepsLeft_lt hinv hr hw⟩

/-- Settles O42: R131's bounds at a position are largest at the last one of a full chunk. -/
theorem iterationBounds : Obligations.IterationBounds := by
  intro s hinv hit
  cases hs : s.st with
  | poll =>
    have hiter := (State.iterInv_iff_poll hs).1 hit
    simp [State.padRequests, State.bytesConsumed, State.reportsSent, hiter]
  | fast =>
    obtain ⟨-, hchunk⟩ := (State.inv_iff_fastInv hs).1 hinv
    obtain ⟨hp, hb, hrep⟩ := (State.iterInv_iff_fast hs).1 hit
    have h11 := hchunk.clen_le
    exact ⟨by omega, by omega, by omega, fun _ => hrep⟩
  | scan =>
    obtain ⟨-, hchunk, hle⟩ := (State.inv_iff_scanInv hs).1 hinv
    obtain ⟨hh, hp, hb, hrep, -⟩ := (State.iterInv_iff_scanIter hs).1 hit
    exact State.iterationBounds_of_position hle hchunk.clen_le hh hp hb hrep
  | pad =>
    obtain ⟨-, -, -, ⟨hchunk, hlt, -⟩, -⟩ := (State.inv_iff_padInv hs).1 hinv
    obtain ⟨hh, hp, hb, hrep⟩ := (State.iterInv_iff_padIter hs).1 hit
    exact State.iterationBounds_of_position hlt hchunk.clen_le hh hp
      (hb.trans (Nat.add_le_add_left (padBudget_le_succ ..) _))
      ((hrep.trans (padPositions_mono _ (Nat.le_succ _))).trans (Nat.le_succ _))
  | cand =>
    obtain ⟨-, hchunk, hlt, -⟩ := (State.inv_iff_candInv hs).1 hinv
    obtain ⟨hh, hp, hb, hrep⟩ := (State.iterInv_iff_candIter hs).1 hit
    exact State.iterationBounds_of_position hlt hchunk.clen_le hh hp hb
      ((hrep.trans (padPositions_mono _ (Nat.le_succ _))).trans (Nat.le_succ _))

/-- Settles O44: the candidate of position 0 of a full chunk is the chunk itself, which the fast path found no frame.
That CAND_ACCEPT is then refused is the model's choice of an outcome (assumption 8). -/
theorem fullChunkCandidateNeverPasses : Obligations.FullChunkCandidateNeverPasses := by
  intro s hinv hslow hs h0 h11
  obtain ⟨-, hcand⟩ := (State.inv_iff_candInv hs).1 hinv
  obtain ⟨w, hw⟩ := hcand.exists_seq
  obtain ⟨hchunk, -⟩ := hcand
  have hf : frameOK w = false := hslow.frameOK_eq_false_of_full hs hchunk hw h0 h11
  exact ⟨⟨_, execCandReject_eq_next hs hw hf⟩, execCandAccept_eq_refused hs hw hf⟩

end

section
/-! SUPPORT. The operations of SCAN, PAD and CAND (R120 to R125): completion, result and frame; O15 to O20. -/

namespace Sys2Proof.Machine

variable {s : State} {u w data : List Byte}

/-! ## SCAN_HIT -/

/-- R122: SCAN_HIT copies the chunk from IDX on. -/
theorem slice_of_hit {b : Buffer} {clen idx : Count} (hw : b.seq clen = .ok w) (hle : idx.toNat ≤ clen.toNat) :
    b.slice clen idx.toNat (clen - idx).toNat = .ok (w.drop idx.toNat) := by
  rw [toNat_sub_count hle]
  exact Buffer.slice_of_seq _ _ _ _ hw

theorem idx_ne_clen_of_lt (hlt : s.idx.toNat < s.clen.toNat) : s.idx ≠ s.clen := fun h =>
  absurd (congrArg BitVec.toNat h) hlt.ne

/-- The state SCAN_HIT leaves where the candidate `w` needs a pad. -/
def State.padState (s : State) (w : List Byte) : State :=
  { (s.formCand w).request (padCount s.clen s.idx) with st := .pad }

/-- R122: a short candidate is followed by its pad request. -/
theorem State.hitState_of_need_pos (h : 0 < (padCount s.clen s.idx).toNat) :
    s.hitState w = s.padState w := if_pos h

/-- R122, D7: a request for no bytes is not issued. -/
theorem State.hitState_of_need_zero (h : (padCount s.clen s.idx).toNat = 0) :
    s.hitState w = { s.formCand w with st := .cand } := if_neg h.not_gt

/-- R122, R123: an element past the bytes written keeps its storage. -/
theorem Buffer.write_getElem?_of_le (b : Buffer) {off i : ℕ} (h : off + w.length ≤ i) :
    (b.write off w)[i]? = b[i]? := by
  rw [Buffer.write_getElem?, if_neg (by omega)]

/-! ## CAND_ACCEPT -/

/-- R5: the two values of SCAN_MODE. -/
theorem scanMode_eq_all_or_first : ∀ m : ScanMode, m = .all ∨ m = .first
  | .all => .inl rfl
  | .first => .inr rfl

end Sys2Proof.Machine

open Sys2Proof Sys2Proof.Machine

/-- Settles O17: the slice copied is the chunk from IDX on, and NEED decides between the pad request and CAND. -/
theorem scanHitResult : Obligations.ScanHitResult := by
  intro s w hs hw hlt hb
  have h11 : s.clen.toNat ≤ 11 := s.chunk.seq_len_le _ _ hw
  have hslice := slice_of_hit hw hlt.le
  have hlen := toNat_sub_count hlt.le
  refine ⟨s.cand.write 0 (w.drop s.idx.toNat), s.hitState (w.drop s.idx.toNat),
    execScanHit_eq_next hs (idx_ne_clen_of_lt hlt) hb hslice, seq_of_hit _ _ hlt.le h11 hslice,
    fun i hi => Buffer.write_getElem?_of_le _ ?_, hlen, toNat_padCount hlt.le h11, fun hpos => ?_,
    fun hzero => ?_⟩
  · rwa [Nat.zero_add, ((Buffer.slice_eq_ok ..).1 hslice).1, hlen]
  · rw [State.hitState_of_need_pos hpos]
    rfl
  · rw [State.hitState_of_need_zero hzero]
    rfl

/-- Settles O18: the response is written after the candidate's bytes, and NEED keeps the sum of the lengths at most
11. -/
theorem padFillResult : Obligations.PadFillResult := by
  intro s u d hs ho hu hneed
  have h11 : s.candLen.toNat ≤ 11 := s.cand.seq_len_le _ _ hu
  refine ⟨fun hlong t h => ?_, fun hn => ?_⟩
  · obtain ⟨-, -, hn, -⟩ := execPadFill_next h
    exact hn.not_gt hlong
  · have hsum : s.candLen.toNat + d.length ≤ Config.frameLen := by
      change _ ≤ 11
      omega
    exact ⟨_, s.fillState d, execPadFill_eq_next hs ho hn, Buffer.seq_write_append _ _ _ _ hu hsum,
      fun _ => Buffer.write_getElem?_of_le _, toNat_add_countOf _ _ hsum, rfl⟩

/-- Settles O15: SCAN_END's next state is the entry into POLL. -/
theorem scanEndResult : Obligations.ScanEndResult :=
  fun _ hs hi => ⟨_, execScanEnd_eq_next hs hi, rfl⟩

/-- Settles O16: SCAN_SKIP's next state differs in IDX only. -/
theorem scanSkipResult : Obligations.ScanSkipResult :=
  fun _ _ hs hi hb hx => ⟨_, execScanSkip_eq_next hs hi hb hx, rfl⟩

/-- Settles O19: SCAN_MODE decides between the next position and the entry into POLL, after the same report. -/
theorem candAcceptResult : Obligations.CandAcceptResult := by
  intro s w hs hw hf
  have hexec := execCandAccept_eq_next hs hw hf
  rcases scanMode_eq_all_or_first s.scanMode with hm | hm
  · rw [if_neg (by simp [hm])] at hexec
    refine ⟨_, hexec, fun _ => ?_, fun h => nomatch hm.symm.trans h⟩
    simp [State.sentState]
  · rw [if_pos hm] at hexec
    refine ⟨_, hexec, fun h => (nomatch hm.symm.trans h), fun _ => ?_⟩
    simp [State.sentState]

/-- Settles O20: CAND_REJECT logs no event but a trace, which the observation leaves out. -/
theorem candRejectResult : Obligations.CandRejectResult := by
  intro s w hs hw hf
  refine ⟨_, execCandReject_eq_next hs hw hf, ?_, rfl⟩
  rw [State.trace_log, observe_append, observe_traceEvents, List.append_nil, State.tick_log]

end

section
/-! SUPPORT. Runs of several steps: the way from a poll to the scan, the skips, and a padded candidate's three steps
(R103, R105, R121 to R125); O46, O47, O48. -/

namespace Sys2Proof.Machine

variable {s t u : State} {n k : ℕ} {c f v w p noise : List Byte}

/-! ## Runs, one effect after another -/

/-- `n` steps lead from `s` to `t`, a state R33 admits. -/
def State.Reaches (s : State) (n : ℕ) (t : State) : Prop := Host.Core.run core n s = .next t ∧ t.Inv

theorem State.Reaches.run_eq (h : s.Reaches n t) : Host.Core.run core n s = .next t := h.1
theorem State.Reaches.inv (h : s.Reaches n t) : t.Inv := h.2

theorem State.reaches_zero (h : s.Inv) : s.Reaches 0 s := ⟨rfl, h⟩

theorem run_add_of_next (m : ℕ) : ∀ (n : ℕ) {s : State}, Host.Core.run core n s = .next t →
    Host.Core.run core (n + m) s = Host.Core.run core m t
  | 0, s, h => by rw [Nat.zero_add, Host.Outcome.next.inj h]
  | n + 1, s, h => by
    rw [Nat.add_right_comm]
    cases hstep : step s with
    | next u =>
      rw [run_succ_of_next _ hstep] at h ⊢
      exact run_add_of_next m n h
    | fault e =>
      have hcore : core.step s = .fault e := hstep
      simp only [Host.Core.run, hcore, reduceCtorEq] at h
    | refused r => exact nomatch (run_succ_of_refused n hstep).symm.trans h

theorem State.Reaches.step (h : s.Reaches n t) (he : StepEffect t u) : s.Reaches (n + 1) u := by
  exact ⟨(run_add_of_next 1 n h.run_eq).trans (run_succ_of_next 0 (he.step_eq h.inv)), he.inv h.inv⟩

/-! ## The inputs of the steps to come -/

/-- The input of the `k`-th step from `s` on. -/
def State.inputAt (s : State) (k : ℕ) : Input := s.inputs[k]?.getD Input.idle

theorem State.input_eq (s : State) : s.input = s.inputAt 0 := by
  rw [State.input, State.inputAt, List.headD_eq_head?_getD, List.head?_eq_getElem?]

/-- A step lets one input pass. -/
theorem StepEffect.inputAt_eq (h : StepEffect s t) (k : ℕ) : t.inputAt k = s.inputAt (k + 1) := by
  rw [State.inputAt, h.inputs_eq_tail, List.getElem?_tail]
  rfl

theorem State.input_of_idle (h : s.inputAt 0 = Input.idle) : s.input.rst = false ∧ s.input.resp = none := by
  rw [State.input_eq, h]
  exact ⟨rfl, rfl⟩

theorem State.input_of_resp (h : s.inputAt 0 = ⟨false, some p⟩) :
    s.input.rst = false ∧ s.input.resp = some p := by
  rw [State.input_eq, h]
  exact ⟨rfl, rfl⟩

/-! ## From the poll to the scan -/

/-- The state the scan begins in, the poll's response `w` captured and found no frame. -/
def State.slowStart (s : State) (w : List Byte) : State :=
  { (s.captureState w).tick.trace .raw w with hit := false, idx := 0, st := .scan }

/-- R103, R105: a response that is no frame is captured and checked in two steps. -/
theorem State.reaches_slowStart (hs : s.st = .poll) (ho : s.out = .req 11#4) (h1 : 1 ≤ w.length)
    (h11 : w.length ≤ 11) (hf : frameOK w = false) (hin : s.inputAt 0 = ⟨false, some w⟩)
    (hidle : s.inputAt 1 = Input.idle) : s.Reaches 2 (s.slowStart w) := by
  obtain ⟨hr, hd⟩ := State.input_of_resp hin
  have hcapture : StepEffect s (s.captureState w) := .pollCapture hr w hd hs ho h1 h11
  obtain ⟨hr', hd'⟩ := State.input_of_idle ((hcapture.inputAt_eq 0).trans hidle)
  exact ((State.reaches_zero ((State.inv_iff_pollInv hs).2 ho)).step hcapture).step
    (.fastReject hr' hd' rfl w (Buffer.seq_write_zero _ _ h11) hf)

/-! ## The scan over bytes that are not STX -/

/-- `t` is the scan at position `k` of the chunk `w` that the poll `s` brought, no candidate formed yet. -/
structure State.ScansAt (s : State) (w : List Byte) (k : ℕ) (t : State) : Prop where
  st : t.st = .scan
  seq : t.chunk.seq t.clen = .ok w
  idx : t.idx.toNat = k
  cand : t.cand = s.cand
  candLen : t.candLen = s.candLen
  scanMode : t.scanMode = s.scanMode
  log : observe t.log = observe s.log ++ [.readResp w]
  inputAt : ∀ j, t.inputAt j = s.inputAt (k + j + 2)

theorem State.ScansAt.clen (h : s.ScansAt w k t) : t.clen.toNat = w.length :=
  ((Buffer.seq_eq_ok ..).1 h.seq).1.symm

theorem State.slowStart_scansAt (h11 : w.length ≤ 11) : s.ScansAt w 0 (s.slowStart w) where
  st := rfl
  seq := Buffer.seq_write_zero _ _ h11
  idx := rfl
  cand := rfl
  candLen := rfl
  scanMode := rfl
  log := by
    change observe (s.log ++ [.readResp w] ++ traceEvents s.traceEn .raw w) = _
    simp
  inputAt j := by
    change s.inputs.tail.tail[j]?.getD _ = _
    rw [List.getElem?_tail, List.getElem?_tail, Nat.zero_add]
    rfl

/-- R121: a byte that is not STX is skipped. -/
theorem State.ScansAt.skip (h : s.ScansAt w k t) (hin : s.inputAt (k + 2) = Input.idle) (hk : k < w.length)
    (hx : w[k]? ≠ some 0x02) : ∃ u, StepEffect t u ∧ s.ScansAt w (k + 1) u := by
  have hlt : t.idx.toNat < t.clen.toNat := by rwa [h.idx, h.clen]
  obtain ⟨b, hb, hread⟩ := Buffer.read_of_seq _ _ _ _ h.seq hlt
  rw [h.idx] at hb
  obtain ⟨hr, hd⟩ := State.input_of_idle ((h.inputAt 0).trans hin)
  have hskip := StepEffect.scanSkip hr hd h.st (idx_ne_clen_of_lt hlt) b hread fun he => hx (he ▸ hb)
  refine ⟨_, hskip, h.st, h.seq, ?_, h.cand, h.candLen, h.scanMode, h.log, fun j => ?_⟩
  · exact (toNat_idx_succ hlt (t.chunk.seq_len_le _ _ h.seq)).trans (congrArg (· + 1) h.idx)
  · rw [hskip.inputAt_eq, h.inputAt, Nat.add_right_comm k 1, ← Nat.add_assoc]

/-- R103, R105, R121: the scan of a chunk that is no frame comes to position `k` in `k + 2` steps, where no byte before
it is STX. -/
theorem exists_scansAt (hs : s.st = .poll) (ho : s.out = .req 11#4) (h1 : 1 ≤ w.length) (h11 : w.length ≤ 11)
    (hf : frameOK w = false) (hin : s.inputAt 0 = ⟨false, some w⟩) :
    ∀ k ≤ w.length, (∀ j < k, w[j]? ≠ some 0x02) → (∀ j ≤ k, s.inputAt (j + 1) = Input.idle) →
      ∃ t, s.Reaches (k + 2) t ∧ s.ScansAt w k t
  | 0, _, _, hidle =>
    ⟨_, State.reaches_slowStart hs ho h1 h11 hf hin (hidle 0 le_rfl), State.slowStart_scansAt h11⟩
  | k + 1, hk, hx, hidle => by
    obtain ⟨t, ht, hscan⟩ := exists_scansAt hs ho h1 h11 hf hin k (by omega) (fun j hj => hx j (by omega))
      fun j hj => hidle j (by omega)
    obtain ⟨u, hskip, hu⟩ := hscan.skip (hidle (k + 1) le_rfl) hk (hx k (Nat.lt_succ_self k))
    exact ⟨u, Nat.add_right_comm k 1 2 ▸ ht.step hskip, hu⟩

/-! ## The check of a candidate -/

/-- R124, R125: what the check of the candidate `c` adds to the observed log. -/
def checkEvents (m : ScanMode) (c : List Byte) : List Event :=
  if frameOK c then .report (payload c) :: (if m = .first then [.readReq 11#4] else []) else []

theorem reports_checkEvents (m : ScanMode) (c : List Byte) :
    reports (checkEvents m c) = if frameOK c then [payload c] else [] := by
  unfold checkEvents
  split_ifs <;> rfl

/-- R55: a check brings no bytes. -/
theorem streamStep_checkEvents (m : ScanMode) (c b : List Byte) : (checkEvents m c).foldl streamStep b = b := by
  unfold checkEvents
  split_ifs <;> rfl

/-- R124, R125: `t` is what the check of the candidate `c` leaves of `s`. -/
structure State.Checked (s : State) (c : List Byte) (t : State) : Prop where
  inputs : t.inputs = s.inputs.tail
  chunk : t.chunk = s.chunk
  clen : t.clen = s.clen
  log : observe t.log = observe s.log ++ checkEvents s.scanMode c
  goesOn : frameOK c = false ∨ s.scanMode = .all → t.st = .scan ∧ t.idx = s.idx + 1
  ends : frameOK c = true → s.scanMode = .first → t.st = .poll

/-- R124, R125: with no reset and no response CAND's step is the check of the candidate. -/
theorem exists_check (hin : s.inputAt 0 = Input.idle) (hs : s.st = .cand) (hc : s.cand.seq s.candLen = .ok c) :
    ∃ t, StepEffect s t ∧ s.Checked c t := by
  obtain ⟨hr, hd⟩ := State.input_of_idle hin
  cases hf : frameOK c with
  | false =>
    refine ⟨_, .candReject hr hd hs c hc hf, ?_⟩
    constructor <;> simp [checkEvents, hf]
  | true =>
    rcases scanMode_eq_all_or_first s.scanMode with hm | hm
    · refine ⟨_, .candAcceptAll hr hd hs c hc hf hm, ?_⟩
      constructor <;> simp [checkEvents, hf, hm, State.sentState]
    · refine ⟨_, .candAcceptFirst hr hd hs c hc hf hm, ?_⟩
      constructor <;> simp [checkEvents, hf, hm, State.sentState]

/-! ## A padded candidate: hit, pad, check -/

/-- R122 to R125: an STX whose candidate `v` needs a pad, the pad response `p`, and the check of `v ++ p`. -/
theorem State.Reaches.padded (h : s.Reaches n t) (hs : t.st = .scan) (hw : t.chunk.seq t.clen = .ok w)
    (hb : t.chunk.read t.clen t.idx.toNat = .ok 0x02) (hv : w.drop t.idx.toNat = v)
    (hpos : 0 < (padCount t.clen t.idx).toNat) (hp : p.length ≤ (padCount t.clen t.idx).toNat)
    (hin0 : t.inputAt 0 = Input.idle) (hin1 : t.inputAt 1 = ⟨false, some p⟩) (hin2 : t.inputAt 2 = Input.idle) :
    s.Reaches (n + 1) (t.padState v) ∧
      ∃ u, s.Reaches (n + 3) u ∧ ((t.padState v).fillState p).Checked (v ++ p) u := by
  obtain ⟨hlt, -⟩ := (Buffer.read_eq_ok ..).1 hb
  have hslice := slice_of_hit hw hlt.le
  rw [hv] at hslice
  obtain ⟨hr, hd⟩ := State.input_of_idle hin0
  have hhit : StepEffect t (t.padState v) := by
    rw [← State.hitState_of_need_pos hpos]
    exact .scanHit hr hd hs (idx_ne_clen_of_lt hlt) hb v hslice
  have hpad := h.step hhit
  have hpadInv : (t.padState v).PadInv := (State.inv_iff_padInv rfl).1 hpad.inv
  obtain ⟨hr1, hd1⟩ := State.input_of_resp ((hhit.inputAt_eq 0).trans hin1)
  have hfill : StepEffect (t.padState v) ((t.padState v).fillState p) := .padFill hr1 p hd1 rfl rfl hp
  have hseq : (t.padState v).cand.seq (t.padState v).candLen = .ok v :=
    seq_of_hit _ _ hlt.le (t.chunk.seq_len_le _ _ hw) hslice
  obtain ⟨u, hcheck, hchecked⟩ :=
    exists_check ((hfill.inputAt_eq 0).trans ((hhit.inputAt_eq 1).trans hin2)) rfl (hpadInv.seq_fill hp hseq)
  exact ⟨hpad, u, (hpad.step hfill).step hcheck, hchecked⟩

/-- What a padded candidate's three steps add to the observed log. -/
theorem State.Checked.observe_padded (h : ((s.padState v).fillState p).Checked c t) :
    observe t.log =
      observe s.log ++ [.readReq (padCount s.clen s.idx), .readResp p] ++ checkEvents s.scanMode c := by
  have hlog : ((s.padState v).fillState p).log = s.log ++ [.readReq (padCount s.clen s.idx)] ++ [.readResp p] := rfl
  have hmode : ((s.padState v).fillState p).scanMode = s.scanMode := rfl
  rw [h.log, hlog, hmode]
  simp

/-! ## Reports and input stream of a log, from its observation -/

theorem reports_observe (l : List Event) : reports (observe l) = reports l := by
  induction l with
  | nil => rfl
  | cons e l ih => cases e <;> simp [ih]

theorem inputStream_observe (l : List Event) : inputStream (observe l) = inputStream l := by
  unfold inputStream
  generalize ([] : List Byte) = b
  induction l generalizing b with
  | nil => rfl
  | cons e l ih => cases e <;> simp [streamStep, ih]

/-! ## Noise, then the beginning of a frame (R133) -/

theorem length_noise_append (hf : frameOK f = true) {m : ℕ} (hm : m ≤ 11) :
    (noise ++ f.take m).length = noise.length + m := by
  rw [List.length_append, List.length_take, length_of_frameOK hf, Nat.min_eq_left hm]

/-- A chunk with noise before the frame's bytes is no frame, for want of an STX, and without, for its length. -/
theorem frameOK_noise_append (hf : frameOK f = true) {m : ℕ} (hn : (0x02 : Byte) ∉ noise)
    (hm : noise.length + m ≤ 11) (hfull : ¬(noise.length = 0 ∧ m = 11)) : frameOK (noise ++ f.take m) = false := by
  refine Bool.eq_false_iff.2 fun h => ?_
  obtain ⟨hlen, hstx, -⟩ := frameOK_iff.1 h
  rw [length_noise_append hf (by omega)] at hlen
  cases noise with
  | nil => exact hfull ⟨rfl, by simpa using hlen⟩
  | cons b bs =>
    obtain rfl : b = 0x02 := Option.some.inj hstx
    exact hn List.mem_cons_self

/-- R133: a frame's first `m` bytes and a pad response pass unless the response is short or wrong at a tested offset. -/
theorem frameOK_take_append_iff (hf : frameOK f = true) {m : ℕ} (h1 : 1 ≤ m) (h10 : m ≤ 10) :
    frameOK (f.take m ++ p) = true ↔
      p.length = 11 - m ∧ p[10 - m]? = some 0x03 ∧ (m = 1 → p[0]? = some 0x08) := by
  obtain ⟨hlen, hstx, hmark, -⟩ := frameOK_iff.1 hf
  have htake : (f.take m).length = m := by rw [List.length_take, hlen]; omega
  have hfirst : (f.take m ++ p)[0]? = some 0x02 := by
    rw [List.getElem?_append_left (by omega), List.getElem?_take_of_lt (by omega), hstx]
  have hlast : (f.take m ++ p)[10]? = p[10 - m]? := by rw [List.getElem?_append_right (by omega), htake]
  have hsecond : (f.take m ++ p)[1]? = some 0x08 ↔ (m = 1 → p[0]? = some 0x08) := by
    by_cases hm : m = 1
    · rw [List.getElem?_append_right (by omega), htake, hm]
      exact ⟨fun h _ => h, fun h => h rfl⟩
    · rw [List.getElem?_append_left (by omega), List.getElem?_take_of_lt (by omega), hmark]
      exact ⟨fun _ h => absurd h hm, fun _ => rfl⟩
  rw [frameOK_iff, hfirst, hsecond, hlast, List.length_append, htake]
  constructor
  · rintro ⟨hl, -, hs, he⟩
    exact ⟨by omega, he, hs⟩
  · rintro ⟨hl, he, hs⟩
    exact ⟨by omega, rfl, hs, he⟩

/-- R133's inputs: the poll's response, idle steps for the check, the skips and the hit, the pad's response, and idle
steps after it. -/
theorem State.inputAt_of_resync {a b : Input} (hin : s.inputs = a :: List.replicate n Input.idle ++ [b]) :
    s.inputAt 0 = a ∧ (∀ k < n, s.inputAt (k + 1) = Input.idle) ∧ s.inputAt (n + 1) = b ∧
      s.inputAt (n + 2) = Input.idle := by
  simp only [State.inputAt, hin, List.cons_append, List.getElem?_cons_zero, List.getElem?_cons_succ, Option.getD_some]
  refine ⟨trivial, fun k hk => ?_, ?_, ?_⟩
  · rw [List.getElem?_append_left (by simpa using hk), List.getElem?_replicate, if_pos hk, Option.getD_some]
  · rw [List.getElem?_append_right (by simp)]
    simp
  · rw [List.getElem?_append_right (by simp)]
    simp

end Sys2Proof.Machine

open Sys2Proof Sys2Proof.Machine

/-- Settles O46: the capture and the fast-path check, a skip for each byte, and SCAN_END. -/
theorem chunkWithoutStxGivesNothing : Obligations.ChunkWithoutStxGivesNothing := by
  intro s w hs ho h1 h11 hstx hin
  have hno (j : ℕ) : w[j]? ≠ some 0x02 := fun hj => hstx (List.mem_of_getElem? hj)
  have hf : frameOK w = false := Bool.eq_false_iff.2 fun h => by
    obtain ⟨-, hfirst, -⟩ := frameOK_iff.1 h
    exact hno 0 hfirst
  have hinput : s.inputAt 0 = ⟨false, some w⟩ := by rw [State.inputAt, hin]; rfl
  have hidle (k : ℕ) : s.inputAt (k + 1) = Input.idle := by
    rw [State.inputAt, hin]
    rfl
  have hscans (k : ℕ) (hk : k ≤ w.length) : ∃ t, s.Reaches (k + 2) t ∧ s.ScansAt w k t :=
    exists_scansAt hs ho h1 h11 hf hinput k hk (fun j _ => hno j) fun j _ => hidle j
  refine ⟨fun k hk => ?_, ?_⟩
  · obtain ⟨u, hu, hscan⟩ := hscans k hk
    exact ⟨u, hu.run_eq, hscan.st, hscan.idx⟩
  · obtain ⟨u, hu, hscan⟩ := hscans w.length le_rfl
    obtain ⟨hr, hd⟩ := State.input_of_idle ((hscan.inputAt 0).trans (hidle _))
    have hend := StepEffect.scanEnd hr hd hscan.st (BitVec.eq_of_toNat_eq (hscan.idx.trans hscan.clen.symm))
    refine ⟨_, (hu.step hend).run_eq, rfl, hscan.cand, hscan.candLen, ?_⟩
    rw [State.enterPoll_log, State.tick_log, observe_append, hscan.log, List.append_assoc]
    rfl

/-- Settles O48: the candidate checked is the chunk from IDX on and then the pad response, and the check's events are
the only ones after the response. That the three steps let their entries of the input list pass is the model's own
bookkeeping (assumption 1). -/
theorem candidateSendsExactlyItsFrame : Obligations.CandidateSendsExactlyItsFrame := by
  intro s w p rest hinv hs hw hb hpos hp hin
  obtain ⟨hlt, -⟩ := (Buffer.read_eq_ok ..).1 hb
  have h11 : s.clen.toNat ≤ 11 := s.chunk.seq_len_le _ _ hw
  have hinput (k : ℕ) :
      s.inputAt k = (Input.idle :: ⟨false, some p⟩ :: Input.idle :: rest)[k]?.getD Input.idle := by
    rw [State.inputAt, hin]
  obtain ⟨-, t, ht, hchecked⟩ :=
    (State.reaches_zero hinv).padded hs hw hb rfl hpos hp (hinput 0) (hinput 1) (hinput 2)
  have hlog := hchecked.observe_padded
  have hreports : reports t.log = reports s.log ++ reports (checkEvents s.scanMode (w.drop s.idx.toNat ++ p)) := by
    rw [← reports_observe t.log, hlog]
    simp [reports_observe]
  have hstream : inputStream t.log = inputStream s.log ++ p := by
    rw [← inputStream_observe t.log, hlog, inputStream, List.foldl_append, streamStep_checkEvents, List.foldl_append,
      ← inputStream, inputStream_observe]
    rfl
  rw [reports_checkEvents] at hreports
  refine ⟨toNat_padCount hlt.le h11, t, ht.run_eq, ?_, hchecked.chunk, hchecked.clen, hlog, fun hf => ?_,
    fun hf => ?_, fun hgo => ?_, hchecked.ends⟩
  · rw [hchecked.inputs]
    change s.inputs.tail.tail.tail = rest
    rw [hin]
    rfl
  · rw [hreports, if_pos hf]
  · rw [hreports, if_neg (by simp [hf]), List.append_nil]
  · obtain ⟨hscan, hidx⟩ := hchecked.goesOn hgo
    exact ⟨hscan, (congrArg BitVec.toNat hidx).trans (toNat_idx_succ hlt h11), hstream⟩

/-- Settles O47: the capture, the check, a skip for each byte of noise, and the padded candidate's three steps. -/
theorem resyncWithPadding : Obligations.ResyncWithPadding := by
  intro s noise f p m hs ho hnoise hf h1 hm hfull hp hin
  have hm10 : m ≤ 10 := by omega
  obtain ⟨-, hstx, -⟩ := frameOK_iff.1 hf
  have hlen : (noise ++ f.take m).length = noise.length + m := length_noise_append hf (by omega)
  obtain ⟨hresp, hidle, hpad, hend⟩ := State.inputAt_of_resync hin
  obtain ⟨t, ht, hscan⟩ := exists_scansAt hs ho (by omega) (hlen.trans_le hm)
    (frameOK_noise_append hf hnoise hm hfull) hresp noise.length (by omega)
    (fun j hj he => hnoise (List.mem_of_getElem? (List.getElem?_append_left hj ▸ he)))
    fun j hj => hidle j (by omega)
  have hb : t.chunk.read t.clen t.idx.toNat = .ok 0x02 := by
    refine Buffer.read_of_getElem? hscan.seq ?_
    rw [hscan.idx, List.getElem?_append_right le_rfl, Nat.sub_self, List.getElem?_take_of_lt h1, hstx]
  have hv : (noise ++ f.take m).drop t.idx.toNat = f.take m := List.drop_left' hscan.idx.symm
  have hclen : t.clen.toNat = noise.length + m := hscan.clen.trans hlen
  have hneed : (padCount t.clen t.idx).toNat = 11 - m := by
    have hidx := hscan.idx
    rw [toNat_padCount (by omega) (by omega)]
    omega
  have hcount : padCount t.clen t.idx = BitVec.ofNat 4 (11 - m) := by
    rw [← hneed, BitVec.ofNat_toNat, BitVec.setWidth_eq]
  obtain ⟨hhit, u, hu, hchecked⟩ := ht.padded hscan.st hscan.seq hb hv (by omega) (by omega)
    ((hscan.inputAt 0).trans (hidle _ (by omega))) ((hscan.inputAt 1).trans hpad) ((hscan.inputAt 2).trans hend)
  refine ⟨⟨_, hhit.run_eq, rfl, hscan.idx, hneed⟩, ⟨u, hu.run_eq, ?_⟩, ?_, ?_⟩
  · rw [hchecked.observe_padded, hscan.log, hscan.scanMode, hcount, List.append_assoc (observe s.log)]
    rfl
  · rintro rfl
    rw [List.take_append_drop]
    exact ⟨hf, rfl⟩
  · have hshort : p.length < 11 - m ↔ ¬p.length = 11 - m := by omega
    rw [← Bool.not_eq_true, frameOK_take_append_iff hf h1 hm10, hshort, not_and_or, not_and_or, Classical.not_imp]

end

section
/-! SUPPORT. The trace has no effect (R156): removing the port and its events commutes with every port and register
operation, with every operation of R81, and so with a step. O51. -/

namespace Sys2Proof.Machine

variable {s : State}

/-! ## Removing the trace from an outcome -/

@[simp] theorem mapNext_next (f : State → State) : mapNext f (.next s) = .next (f s) := rfl

@[simp] theorem mapNext_onRow (f : State → State) (p : Bool) (k : Out) :
    mapNext f (onRow p k) = onRow p (mapNext f k) := by
  cases p <;> rfl

@[simp] theorem mapNext_withRead {α : Type} (f : State → State) (r : Except Fault α) (k : α → Out) :
    mapNext f (withRead r k) = withRead r fun a => mapNext f (k a) := by
  cases r <;> rfl

/-- R155: without a trace port no trace event is logged. -/
@[simp] theorem traceEvents_false (kind : TraceKind) (data : List Byte) : traceEvents false kind data = [] := rfl

/-! ## What the port and register operations do to a state without a trace -/

theorem State.tick_untraced : s.untraced.tick = s.tick.untraced := rfl

theorem State.abandon_untraced : s.untraced.abandon = s.abandon.untraced := rfl

theorem State.request_untraced (n : Count) : s.untraced.request n = (s.request n).untraced := by
  simp [State.untraced, State.request]

theorem State.respond_untraced (data : List Byte) : s.untraced.respond data = (s.respond data).untraced := by
  simp [State.untraced, State.respond]

theorem State.sinkSend_untraced (r : List Byte) : s.untraced.sinkSend r = (s.sinkSend r).untraced := by
  simp [State.untraced, State.sinkSend]

theorem State.clear_untraced : s.untraced.clear = s.clear.untraced := by
  simp [State.untraced, State.clear]

theorem State.enterPoll_untraced : s.untraced.enterPoll = s.enterPoll.untraced :=
  State.request_untraced (s := { s with st := .poll }) _

/-- R155, R184: the event a trace logs is in no observation, and without a port there is none. -/
theorem State.trace_untraced (kind : TraceKind) (data : List Byte) :
    s.untraced.trace kind data = (s.trace kind data).untraced := by
  simp [State.untraced, State.trace]

theorem State.requestPad_untraced : s.untraced.requestPad = s.requestPad.untraced := by
  unfold State.requestPad
  change (if 0 < s.need.toNat then _ else _) = _
  split
  · exact congrArg (fun u : State => { u with st := .pad }) (State.request_untraced s.need)
  · rfl

/-! ## What each operation does to a state without a trace. The registers an operation reads are the same there, which
is what the closing `rfl` says. -/

theorem execPollEmpty_untraced : execPollEmpty s.untraced = mapNext State.untraced (execPollEmpty s) := by
  simp only [execPollEmpty, mapNext_onRow, mapNext_next, State.tick_untraced, State.respond_untraced,
    State.enterPoll_untraced]
  rfl

theorem execPollCapture_untraced (data : List Byte) :
    execPollCapture data s.untraced = mapNext State.untraced (execPollCapture data s) := by
  simp only [execPollCapture, mapNext_onRow, mapNext_next, State.tick_untraced, State.respond_untraced]
  rfl

theorem execFastAccept_untraced : execFastAccept s.untraced = mapNext State.untraced (execFastAccept s) := by
  simp only [execFastAccept, mapNext_onRow, mapNext_withRead, mapNext_next, State.tick_untraced,
    State.sinkSend_untraced, State.enterPoll_untraced]
  rfl

theorem execFastReject_untraced : execFastReject s.untraced = mapNext State.untraced (execFastReject s) := by
  simp only [execFastReject, mapNext_onRow, mapNext_withRead, mapNext_next, State.tick_untraced,
    State.trace_untraced]
  rfl

theorem execScanEnd_untraced : execScanEnd s.untraced = mapNext State.untraced (execScanEnd s) := by
  simp only [execScanEnd, mapNext_onRow, mapNext_next, State.tick_untraced, State.enterPoll_untraced]
  rfl

theorem execScanHit_untraced : execScanHit s.untraced = mapNext State.untraced (execScanHit s) := by
  simp only [execScanHit, mapNext_onRow, mapNext_withRead, mapNext_next, ← State.requestPad_untraced]
  rfl

theorem execScanSkip_untraced : execScanSkip s.untraced = mapNext State.untraced (execScanSkip s) := by
  simp only [execScanSkip, mapNext_onRow, mapNext_withRead, mapNext_next]
  rfl

theorem execPadFill_untraced (data : List Byte) :
    execPadFill data s.untraced = mapNext State.untraced (execPadFill data s) := by
  simp only [execPadFill, mapNext_onRow, mapNext_next, State.tick_untraced, State.respond_untraced]
  rfl

theorem execCandAccept_untraced : execCandAccept s.untraced = mapNext State.untraced (execCandAccept s) := by
  simp only [execCandAccept, mapNext_onRow, mapNext_withRead, State.tick_untraced, State.trace_untraced,
    State.sinkSend_untraced, apply_ite (mapNext State.untraced), mapNext_next, ← State.enterPoll_untraced]
  rfl

theorem execCandReject_untraced : execCandReject s.untraced = mapNext State.untraced (execCandReject s) := by
  simp only [execCandReject, mapNext_onRow, mapNext_withRead, mapNext_next, State.tick_untraced,
    State.trace_untraced]
  rfl

theorem execReset_untraced : execReset s.untraced = mapNext State.untraced (execReset s) := by
  simp only [execReset, mapNext_next, State.tick_untraced, State.abandon_untraced, State.clear_untraced,
    State.enterPoll_untraced]

/-- R156: removing the trace commutes with every operation, where it completes and where it stops. -/
theorem exec_untraced (i : Instr) : exec i s.untraced = mapNext State.untraced (exec i s) := by
  cases i with
  | pollEmpty => exact execPollEmpty_untraced
  | pollCapture data => exact execPollCapture_untraced data
  | fastAccept => exact execFastAccept_untraced
  | fastReject => exact execFastReject_untraced
  | scanEnd => exact execScanEnd_untraced
  | scanHit => exact execScanHit_untraced
  | scanSkip => exact execScanSkip_untraced
  | padFill data => exact execPadFill_untraced data
  | candAccept => exact execCandAccept_untraced
  | candReject => exact execCandReject_untraced
  | reset => exact execReset_untraced

/-! ## The step -/

/-- R156: no step reads anything back from the trace port. -/
theorem see_untraced : see s.untraced = see s := rfl

theorem step_untraced : step s.untraced = mapNext State.untraced (step s) := by
  simp only [step, see_untraced]
  cases see s with
  | word w =>
    cases hi : decode w with
    | ok i => simpa only [hi] using exec_untraced i
    | error e => simp only [hi]; rfl
  | wait => rfl
  | noMove r => rfl
  | fault f => rfl

end Sys2Proof.Machine

open Sys2Proof.Machine

/-- Settles O51: what a step sees does not depend on the trace, and each operation commutes with removing it. -/
theorem traceHasNoEffect : Obligations.TraceHasNoEffect := fun _ => step_untraced

end

section
/-! SUPPORT. What the checks of FAST and CAND log (R104, R105, R124, R125), and that nothing else a step does is a
report or a trace event (R152, R155). O34 and O36. -/

namespace Sys2Proof.Machine

variable {s t : State}

/-! ## The trace events of a log -/

@[simp] theorem filter_isTrace_traceEvents (en : Bool) (kind : TraceKind) (data : List Byte) :
    (traceEvents en kind data).filter Event.isTrace = traceEvents en kind data := by
  cases en <;> rfl

@[simp] theorem filter_isTrace_checkEvents (m : ScanMode) (c : List Byte) :
    (checkEvents m c).filter Event.isTrace = [] := by
  unfold checkEvents
  split_ifs <;> rfl

/-! ## SCAN_HIT logs nothing but its pad request (R122) -/

theorem State.reports_hitState (w : List Byte) : reports (s.hitState w).log = reports s.log := by
  rw [State.hitState_eq, State.requestPad_log]
  split <;> simp [State.formCand]

theorem State.filter_isTrace_hitState (w : List Byte) :
    (s.hitState w).log.filter Event.isTrace = s.log.filter Event.isTrace := by
  rw [State.hitState_eq, State.requestPad_log]
  split <;> simp [State.formCand, Event.isTrace]

/-! ## What FAST's check logs -/

/-- R104, R105: what the check of the chunk `w` adds to the log. -/
def fastEvents (en : Bool) (w : List Byte) : List Event :=
  if frameOK w then [.report (payload w), .readReq 11#4] else traceEvents en .raw w

theorem reports_fastEvents (en : Bool) (w : List Byte) :
    reports (fastEvents en w) = if frameOK w then [payload w] else [] := by
  unfold fastEvents
  split_ifs
  · rfl
  · exact reports_traceEvents ..

theorem filter_isTrace_fastEvents (en : Bool) (w : List Byte) :
    (fastEvents en w).filter Event.isTrace = if frameOK w then [] else traceEvents en .raw w := by
  unfold fastEvents
  split_ifs
  · rfl
  · exact filter_isTrace_traceEvents ..

/-! ## What a step logs. An effect that starts in another control state, or is the reset's, is ruled out by
`simp_all`. -/

/-- R104, R105: in FAST a step is the check of the chunk. -/
theorem StepEffect.log_of_fast {w : List Byte} (h : StepEffect s t) (hr : s.input.rst = false)
    (hs : s.st = .fast) (hw : s.chunk.seq s.clen = .ok w) : t.log = s.log ++ fastEvents s.traceEn w := by
  cases h
  case fastAccept v hv hf =>
    obtain rfl : v = w := Except.ok.inj (hv.symm.trans hw)
    simp [fastEvents, hf]
  case fastReject v hv hf =>
    obtain rfl : v = w := Except.ok.inj (hv.symm.trans hw)
    simp [fastEvents, hf]
  all_goals simp_all

/-- R124, R125: in CAND a step is the check of the candidate, traced whatever its outcome. -/
theorem StepEffect.log_of_cand {w : List Byte} (h : StepEffect s t) (hr : s.input.rst = false)
    (hs : s.st = .cand) (hw : s.cand.seq s.candLen = .ok w) :
    t.log = s.log ++ (traceEvents s.traceEn .cand w ++ checkEvents s.scanMode w) := by
  cases h
  case candAcceptFirst v hv hf hm | candAcceptAll v hv hf hm =>
    obtain rfl : v = w := Except.ok.inj (hv.symm.trans hw)
    simp [State.sentState, checkEvents, hf, hm]
  case candReject v hv hf =>
    obtain rfl : v = w := Except.ok.inj (hv.symm.trans hw)
    simp [checkEvents, hf]
  all_goals simp_all

/-- R152, R155: outside FAST and CAND a step logs requests, responses and resets only. -/
theorem StepEffect.log_of_no_check (h : StepEffect s t) (hfast : s.st ≠ .fast) (hcand : s.st ≠ .cand) :
    reports t.log = reports s.log ∧ t.log.filter Event.isTrace = s.log.filter Event.isTrace := by
  cases h with
  | fastAccept _ _ hs | fastReject _ _ hs => exact absurd hs hfast
  | candAcceptFirst _ _ hs | candAcceptAll _ _ hs | candReject _ _ hs => exact absurd hs hcand
  | scanHit => exact ⟨State.reports_hitState _, State.filter_isTrace_hitState _⟩
  | reset | wait | pollEmpty | pollCapture | padFill | scanEnd | scanSkip => simp [Event.isTrace]

/-- R176: a reset goes before the check. -/
theorem StepEffect.log_of_reset (h : StepEffect s t) (hr : s.input.rst = true) :
    reports t.log = reports s.log ∧ t.log.filter Event.isTrace = s.log.filter Event.isTrace := by
  rw [h.eq_reset hr]
  simp [Event.isTrace]

/-- R155: without a trace port no step logs a trace event. -/
theorem StepEffect.filter_isTrace_of_no_port (h : StepEffect s t) (hen : s.traceEn = false) :
    t.log.filter Event.isTrace = s.log.filter Event.isTrace := by
  cases h with
  | fastReject | candAcceptFirst | candAcceptAll | candReject => simp [State.sentState, Event.isTrace, hen]
  | scanHit => exact State.filter_isTrace_hitState _
  | reset | wait | pollEmpty | pollCapture | padFill | fastAccept | scanEnd | scanSkip => simp [Event.isTrace]

end Sys2Proof.Machine

open Sys2Proof.Machine

/-- Settles O34: one lemma a clause; only the checks of FAST and CAND send a report, the payload of a frame. -/
theorem reportIffFrame : Obligations.ReportIffFrame := by
  intro s t h
  have heff := step_effect h
  refine ⟨fun hr => (heff.log_of_reset hr).1, fun hr => ⟨fun w hs hw => ?_, fun w hs hw => ?_,
    fun hfast hcand => (heff.log_of_no_check hfast hcand).1⟩⟩
  · rw [heff.log_of_fast hr hs hw, reports_append, reports_fastEvents]
    rfl
  · rw [heff.log_of_cand hr hs hw, reports_append, reports_append, reports_traceEvents, reports_checkEvents]
    rfl

/-- Settles O36: one lemma a clause. That a check logs its trace event once is the model's choice (assumption 14). -/
theorem traceEventsAreTheAllowedOnes : Obligations.TraceEventsAreTheAllowedOnes := by
  intro s t h
  have heff := step_effect h
  refine ⟨?_, fun hen hr w => ⟨fun hs hw => ?_, fun hs hw => ?_⟩⟩
  · rintro (hen | hr | ⟨hfast, hcand⟩)
    · exact heff.filter_isTrace_of_no_port hen
    · exact (heff.log_of_reset hr).2
    · exact (heff.log_of_no_check hfast hcand).2
  · rw [heff.log_of_fast hr hs hw, List.filter_append, filter_isTrace_fastEvents, hen]
    rfl
  · rw [heff.log_of_cand hr hs hw, List.filter_append, List.filter_append, filter_isTrace_traceEvents,
      filter_isTrace_checkEvents, hen]
    rfl

end

section
/-! SUPPORT. The reset operation (R190 to R192): the registers and the RESET_INFLIGHT draws after it. O21 and O22. -/

namespace Sys2Proof.Machine

variable {s : State}

/-- R190: the reset operation has no condition. -/
theorem exec_reset (s : State) : exec .reset s = .next s.tick.abandon.clear.enterPoll := rfl

/-- R25: below a length register of 0 there is no element, so no element holds a value. -/
theorem Buffer.read_zero (b : Buffer) (i : Nat) : b.read 0 i = .error .unwritten :=
  if_neg (Nat.not_lt_zero i)

/-! ## The registers (R191) -/

/-- R101, R191: the entry into POLL sets the last two registers that `clear` leaves. -/
theorem State.clear_enterPoll_atReset (s : State) : s.clear.enterPoll.AtReset :=
  ⟨rfl, rfl, rfl, rfl, rfl, rfl, rfl, Buffer.read_zero _, Buffer.read_zero _⟩

/-- R191, V40: the machine after power-on. -/
theorem State.reset_atReset : State.reset.AtReset :=
  ⟨rfl, rfl, rfl, rfl, rfl, rfl, rfl, Buffer.read_zero _, Buffer.read_zero _⟩

/-! ## The draws (R192) -/

/-- With no request outstanding nothing is abandoned. -/
theorem State.abandon_inflight_of_none (h : s.out = .none) : s.abandon.inflight = s.inflight := by
  rw [State.abandon_inflight, if_pos h, List.append_nil]

/-- The draw for an abandoned request is the free value at the number of draws made before. -/
theorem State.abandon_inflight_of_req {n : Count} (h : s.out = .req n) :
    s.abandon.inflight = s.inflight ++ [Config.resetInflight s.inflight.length] := by
  rw [State.abandon_inflight, if_neg (by simp [h])]

end Sys2Proof.Machine

open Sys2Proof.Machine

/-- Settles O21: whatever the state, `clear` and the entry into POLL set every register and add the two events. -/
theorem resetResult : Obligations.ResetResult :=
  ⟨State.reset_atReset, fun s => ⟨_, exec_reset s, State.clear_enterPoll_atReset s.tick.abandon,
    List.append_assoc .., rfl, rfl⟩⟩

/-- Settles O22: only `abandon` draws, and only `clear` writes the buffers. That the draw is a function of its number
(assumption 3) and that the storage is emptied (assumption 9) are the model's choices. -/
theorem resetDrawsAndEmpties : Obligations.ResetDrawsAndEmpties := by
  intro s t h
  obtain rfl := execReset_next h
  exact ⟨State.abandon_inflight_of_none (s := s.tick), fun _ => State.abandon_inflight_of_req (s := s.tick), rfl, rfl⟩

end
